-- ==== Sys2Proof/Word.lean ====
section
/-! DEFINITION. The machine's words (00_scope.md R7, R10): a register and the pc hold 64 bits, an
instruction word 32, a byte of memory 8. Their `+`, `-`, `<<<`, `>>>`, `&&&`, `|||`, `^^^` are the
`BitVec` operations, modulo 2^64 as R11 asks. -/

namespace Sys2Proof

/-- A register value or an address: XLEN = 64 bits (R7). -/
abbrev Word := BitVec 64

/-- A raw instruction word (R50). -/
abbrev Word32 := BitVec 32

/-- The smallest addressable unit of memory (R32). -/
abbrev Byte := BitVec 8

/-- The index of one of the 32 general registers (R15). -/
abbrev Reg := Fin 32

end Sys2Proof
end

