-- ==== Sys2Proof/Syntax.lean ====
section
/-! DEFINITION. The instructions: one constructor per row of spec/opcode_table.json, in the table's
order. An immediate is kept as the bits of its field at the width the format gives it (R56 to R60); its
signed value is `BitVec.toInt` of those bits (R12). Of the immediates of B, J and U only the patterns
R62 allows are well formed (WellFormed.lean). -/

namespace Sys2Proof

/-- One instruction. The two last constructors are the table's catch-all rows: every MISC-MEM or SYSTEM
word that no row above them names, with the whole raw word kept (R65, R161). -/
inductive Instr where
  /-- ADDI (R95) -/
  | addi (rd rs1 : Reg) (imm : BitVec 12)
  /-- SLTI (R96) -/
  | slti (rd rs1 : Reg) (imm : BitVec 12)
  /-- SLTIU (R97) -/
  | sltiu (rd rs1 : Reg) (imm : BitVec 12)
  /-- XORI (R98) -/
  | xori (rd rs1 : Reg) (imm : BitVec 12)
  /-- ORI (R99) -/
  | ori (rd rs1 : Reg) (imm : BitVec 12)
  /-- ANDI (R100) -/
  | andi (rd rs1 : Reg) (imm : BitVec 12)
  /-- SLLI (R101) -/
  | slli (rd rs1 : Reg) (shamt : BitVec 6)
  /-- SRLI (R102) -/
  | srli (rd rs1 : Reg) (shamt : BitVec 6)
  /-- SRAI (R103) -/
  | srai (rd rs1 : Reg) (shamt : BitVec 6)
  /-- ADDIW (R104) -/
  | addiw (rd rs1 : Reg) (imm : BitVec 12)
  /-- SLLIW (R105) -/
  | slliw (rd rs1 : Reg) (shamt : BitVec 5)
  /-- SRLIW (R106) -/
  | srliw (rd rs1 : Reg) (shamt : BitVec 5)
  /-- SRAIW (R107) -/
  | sraiw (rd rs1 : Reg) (shamt : BitVec 5)
  /-- LUI (R108) -/
  | lui (rd : Reg) (imm : BitVec 32)
  /-- AUIPC (R109) -/
  | auipc (rd : Reg) (imm : BitVec 32)
  /-- ADD (R111) -/
  | add (rd rs1 rs2 : Reg)
  /-- SUB (R112) -/
  | sub (rd rs1 rs2 : Reg)
  /-- SLL (R113) -/
  | sll (rd rs1 rs2 : Reg)
  /-- SLT (R114) -/
  | slt (rd rs1 rs2 : Reg)
  /-- SLTU (R115) -/
  | sltu (rd rs1 rs2 : Reg)
  /-- XOR (R116) -/
  | xor (rd rs1 rs2 : Reg)
  /-- SRL (R117) -/
  | srl (rd rs1 rs2 : Reg)
  /-- SRA (R118) -/
  | sra (rd rs1 rs2 : Reg)
  /-- OR (R119) -/
  | or (rd rs1 rs2 : Reg)
  /-- AND (R120) -/
  | and (rd rs1 rs2 : Reg)
  /-- ADDW (R121) -/
  | addw (rd rs1 rs2 : Reg)
  /-- SUBW (R122) -/
  | subw (rd rs1 rs2 : Reg)
  /-- SLLW (R123) -/
  | sllw (rd rs1 rs2 : Reg)
  /-- SRLW (R124) -/
  | srlw (rd rs1 rs2 : Reg)
  /-- SRAW (R125) -/
  | sraw (rd rs1 rs2 : Reg)
  /-- JAL (R128) -/
  | jal (rd : Reg) (imm : BitVec 21)
  /-- JALR (R129) -/
  | jalr (rd rs1 : Reg) (imm : BitVec 12)
  /-- BEQ (R130) -/
  | beq (rs1 rs2 : Reg) (imm : BitVec 13)
  /-- BNE (R131) -/
  | bne (rs1 rs2 : Reg) (imm : BitVec 13)
  /-- BLT (R132) -/
  | blt (rs1 rs2 : Reg) (imm : BitVec 13)
  /-- BGE (R133) -/
  | bge (rs1 rs2 : Reg) (imm : BitVec 13)
  /-- BLTU (R134) -/
  | bltu (rs1 rs2 : Reg) (imm : BitVec 13)
  /-- BGEU (R135) -/
  | bgeu (rs1 rs2 : Reg) (imm : BitVec 13)
  /-- LB (R138) -/
  | lb (rd rs1 : Reg) (imm : BitVec 12)
  /-- LH (R139) -/
  | lh (rd rs1 : Reg) (imm : BitVec 12)
  /-- LW (R140) -/
  | lw (rd rs1 : Reg) (imm : BitVec 12)
  /-- LD (R141) -/
  | ld (rd rs1 : Reg) (imm : BitVec 12)
  /-- LBU (R142) -/
  | lbu (rd rs1 : Reg) (imm : BitVec 12)
  /-- LHU (R143) -/
  | lhu (rd rs1 : Reg) (imm : BitVec 12)
  /-- LWU (R144) -/
  | lwu (rd rs1 : Reg) (imm : BitVec 12)
  /-- SB (R145) -/
  | sb (rs2 rs1 : Reg) (imm : BitVec 12)
  /-- SH (R146) -/
  | sh (rs2 rs1 : Reg) (imm : BitVec 12)
  /-- SW (R147) -/
  | sw (rs2 rs1 : Reg) (imm : BitVec 12)
  /-- SD (R148) -/
  | sd (rs2 rs1 : Reg) (imm : BitVec 12)
  /-- FENCE (R151) -/
  | fence (fm pred succ : BitVec 4) (rs1 rd : Reg)
  /-- FENCE.I (R152) -/
  | fenceI (rd rs1 : Reg) (imm : BitVec 12)
  /-- ECALL (R153) -/
  | ecall
  /-- EBREAK (R154) -/
  | ebreak
  /-- CSRRW (R155) -/
  | csrrw (rd rs1 : Reg) (csr : BitVec 12)
  /-- CSRRS (R156) -/
  | csrrs (rd rs1 : Reg) (csr : BitVec 12)
  /-- CSRRC (R157) -/
  | csrrc (rd rs1 : Reg) (csr : BitVec 12)
  /-- CSRRWI (R158) -/
  | csrrwi (rd : Reg) (uimm : BitVec 5) (csr : BitVec 12)
  /-- CSRRSI (R159) -/
  | csrrsi (rd : Reg) (uimm : BitVec 5) (csr : BitVec 12)
  /-- CSRRCI (R160) -/
  | csrrci (rd : Reg) (uimm : BitVec 5) (csr : BitVec 12)
  /-- MISC-MEM, any other word (R161) -/
  | miscMemOther (w : Word32)
  /-- SYSTEM, any other word (R161) -/
  | systemOther (w : Word32)
  deriving DecidableEq, Repr

end Sys2Proof
end

