-- ==== Sys2Proof/WellFormed.lean ====
section
/-! DEFINITION. Which terms of `Instr` stand for an instruction: the patterns of 30_encoding.md R62
(B and J offsets are even, the low 12 bits of a U immediate are 0), and that a catch-all row holds only
a word of its opcode that no row above it names (R161). Every other field has exactly the width of its
place in the word, so nothing is left to check. -/

namespace Sys2Proof

/-- "for every B-format and J-format word, `imm mod 2 = 0`" (R62). -/
def evenOffset {n : Nat} (imm : BitVec n) : Bool := imm.toNat % 2 == 0

/-- "for every U-format word, `imm mod 4096 = 0`" (R62). -/
def upperImmediate (imm : BitVec 32) : Bool := imm.toNat % 4096 == 0

/-- A MISC-MEM word that is neither FENCE nor FENCE.I (R161). -/
def otherMiscMem (w : Word32) : Bool :=
  w.extractLsb' 0 7 == 0b0001111 && w.extractLsb' 12 3 != 0b000 && w.extractLsb' 12 3 != 0b001

/-- A SYSTEM word that is neither ECALL, EBREAK nor a CSR instruction (R161). -/
def otherSystem (w : Word32) : Bool :=
  w.extractLsb' 0 7 == 0b1110011 &&
    (w.extractLsb' 12 3 == 0b100 ||
      (w.extractLsb' 12 3 == 0b000 && w != 0x00000073 && w != 0x00100073))

/-- The instruction is one some word of the opcode table decodes to. -/
def Instr.wellFormed : Instr → Bool
  | .addi _ _ _ => true
  | .slti _ _ _ => true
  | .sltiu _ _ _ => true
  | .xori _ _ _ => true
  | .ori _ _ _ => true
  | .andi _ _ _ => true
  | .slli _ _ _ => true
  | .srli _ _ _ => true
  | .srai _ _ _ => true
  | .addiw _ _ _ => true
  | .slliw _ _ _ => true
  | .srliw _ _ _ => true
  | .sraiw _ _ _ => true
  | .lui _ imm => upperImmediate imm
  | .auipc _ imm => upperImmediate imm
  | .add _ _ _ => true
  | .sub _ _ _ => true
  | .sll _ _ _ => true
  | .slt _ _ _ => true
  | .sltu _ _ _ => true
  | .xor _ _ _ => true
  | .srl _ _ _ => true
  | .sra _ _ _ => true
  | .or _ _ _ => true
  | .and _ _ _ => true
  | .addw _ _ _ => true
  | .subw _ _ _ => true
  | .sllw _ _ _ => true
  | .srlw _ _ _ => true
  | .sraw _ _ _ => true
  | .jal _ imm => evenOffset imm
  | .jalr _ _ _ => true
  | .beq _ _ imm => evenOffset imm
  | .bne _ _ imm => evenOffset imm
  | .blt _ _ imm => evenOffset imm
  | .bge _ _ imm => evenOffset imm
  | .bltu _ _ imm => evenOffset imm
  | .bgeu _ _ imm => evenOffset imm
  | .lb _ _ _ => true
  | .lh _ _ _ => true
  | .lw _ _ _ => true
  | .ld _ _ _ => true
  | .lbu _ _ _ => true
  | .lhu _ _ _ => true
  | .lwu _ _ _ => true
  | .sb _ _ _ => true
  | .sh _ _ _ => true
  | .sw _ _ _ => true
  | .sd _ _ _ => true
  | .fence _ _ _ _ _ => true
  | .fenceI _ _ _ => true
  | .ecall => true
  | .ebreak => true
  | .csrrw _ _ _ => true
  | .csrrs _ _ _ => true
  | .csrrc _ _ _ => true
  | .csrrwi _ _ _ => true
  | .csrrsi _ _ _ => true
  | .csrrci _ _ _ => true
  | .miscMemOther w => otherMiscMem w
  | .systemOther w => otherSystem w

end Sys2Proof
end

