-- ==== Sys2Proof/Decode.lean ====
section
/-! DEFINITION. The decoder in the spec's component order (30_encoding.md): the bit-field codec, the six
format extractors, the tagged union, the classifier; then the dispatcher's selection of the operation
(40_dispatch_and_step.md R82 to R85), the encoder, and the opcode table's match and mask values. The
values of opcodes, funct3, funct7 and discriminators, and the places of rs2, funct7 and the split
immediates, are those the rules state; the spec marks them general knowledge (log entry 9). -/

namespace Sys2Proof

/-! ## The codec (R50 to R53) -/

/-- `v[lo+len-1 : lo]` (R10). -/
def bits (w : Word32) (lo len : Nat) : BitVec len := w.extractLsb' lo len

/-- The field `v` with its bit 0 at bit `lo` of an `m`-bit value, every other bit 0. -/
def place (m : Nat) {n : Nat} (v : BitVec n) (lo : Nat) : BitVec m := v.setWidth m <<< lo

/-- R51. -/
def opcode (w : Word32) : BitVec 7 := bits w 0 7

/-- The secondary opcode (R52). -/
def funct3 (w : Word32) : BitVec 3 := bits w 12 3

/-- R53. -/
def funct7 (w : Word32) : BitVec 7 := bits w 25 7

/-- The register that a 5-bit field selects (R15). -/
def regOf (v : BitVec 5) : Reg := ⟨v.toNat, v.isLt⟩

/-- The 5-bit field that selects a register. -/
def regBits (r : Reg) : BitVec 5 := BitVec.ofNat 5 r.val

/-- R53. -/
def fieldRd (w : Word32) : Reg := regOf (bits w 7 5)

/-- R53. -/
def fieldRs1 (w : Word32) : Reg := regOf (bits w 15 5)

/-- R53. -/
def fieldRs2 (w : Word32) : Reg := regOf (bits w 20 5)

/-! ## The immediates of the formats (R56 to R60) -/

/-- The I immediate, `w[31:20]` (R56). -/
def immI (w : Word32) : BitVec 12 := bits w 20 12

/-- The S immediate, `w[31:25]` above `w[11:7]` (R57). -/
def immS (w : Word32) : BitVec 12 := place 12 (bits w 25 7) 5 ||| place 12 (bits w 7 5) 0

/-- The B immediate: bit 12 is `w[31]`, bit 11 `w[7]`, bits 10:5 `w[30:25]`, bits 4:1 `w[11:8]`, bit 0
is 0 (R58). -/
def immB (w : Word32) : BitVec 13 :=
  place 13 (bits w 31 1) 12 ||| place 13 (bits w 7 1) 11 ||| place 13 (bits w 25 6) 5 |||
    place 13 (bits w 8 4) 1

/-- The U immediate: the word with its low 12 bits forced to 0 (R59). -/
def immU (w : Word32) : BitVec 32 := w &&& 0xFFFFF000

/-- The J immediate: bit 20 is `w[31]`, bits 19:12 `w[19:12]`, bit 11 `w[20]`, bits 10:1 `w[30:21]`, bit
0 is 0 (R60). -/
def immJ (w : Word32) : BitVec 21 :=
  place 21 (bits w 31 1) 20 ||| place 21 (bits w 12 8) 12 ||| place 21 (bits w 20 1) 11 |||
    place 21 (bits w 21 10) 1

/-! ## The six format records and their extractors (R55 to R61) -/

/-- R55. -/
structure RRecord where
  opcode : BitVec 7
  funct3 : BitVec 3
  funct7 : BitVec 7
  rs1 : Reg
  rs2 : Reg
  rd : Reg
  deriving DecidableEq, Repr

/-- R56. -/
structure IRecord where
  opcode : BitVec 7
  funct3 : BitVec 3
  rs1 : Reg
  rd : Reg
  imm : BitVec 12
  deriving DecidableEq, Repr

/-- R57. -/
structure SRecord where
  opcode : BitVec 7
  funct3 : BitVec 3
  rs1 : Reg
  rs2 : Reg
  imm : BitVec 12
  deriving DecidableEq, Repr

/-- R58. -/
structure BRecord where
  opcode : BitVec 7
  funct3 : BitVec 3
  rs1 : Reg
  rs2 : Reg
  imm : BitVec 13
  deriving DecidableEq, Repr

/-- R59. -/
structure URecord where
  opcode : BitVec 7
  rd : Reg
  imm : BitVec 32
  deriving DecidableEq, Repr

/-- R60. -/
structure JRecord where
  opcode : BitVec 7
  rd : Reg
  imm : BitVec 21
  deriving DecidableEq, Repr

/-- R55. -/
def extractR (w : Word32) : RRecord :=
  { opcode := opcode w, funct3 := funct3 w, funct7 := funct7 w,
    rs1 := fieldRs1 w, rs2 := fieldRs2 w, rd := fieldRd w }

/-- R56. -/
def extractI (w : Word32) : IRecord :=
  { opcode := opcode w, funct3 := funct3 w, rs1 := fieldRs1 w, rd := fieldRd w, imm := immI w }

/-- R57. -/
def extractS (w : Word32) : SRecord :=
  { opcode := opcode w, funct3 := funct3 w, rs1 := fieldRs1 w, rs2 := fieldRs2 w, imm := immS w }

/-- R58. -/
def extractB (w : Word32) : BRecord :=
  { opcode := opcode w, funct3 := funct3 w, rs1 := fieldRs1 w, rs2 := fieldRs2 w, imm := immB w }

/-- R59. -/
def extractU (w : Word32) : URecord := { opcode := opcode w, rd := fieldRd w, imm := immU w }

/-- R60. -/
def extractJ (w : Word32) : JRecord := { opcode := opcode w, rd := fieldRd w, imm := immJ w }

/-- The 6-bit shift amount of the shift view, masked from the extracted I immediate (R63). -/
def shamt6 (imm : BitVec 12) : BitVec 6 := imm.extractLsb' 0 6

/-- The discriminator of the 64-bit shifts (R63). -/
def disc6 (imm : BitVec 12) : BitVec 6 := imm.extractLsb' 6 6

/-- The 5-bit shift amount of the word shifts (R64). -/
def shamt5 (imm : BitVec 12) : BitVec 5 := imm.extractLsb' 0 5

/-- The discriminator of the word shifts (R64). -/
def disc7 (imm : BitVec 12) : BitVec 7 := imm.extractLsb' 5 7

/-! ## The tagged union and the classifier (R65 to R76) -/

/-- The decoded word: exactly one of seven tags (R65). -/
inductive Instruction where
  | r (rec : RRecord)
  | i (rec : IRecord)
  | s (rec : SRecord)
  | b (rec : BRecord)
  | u (rec : URecord)
  | j (rec : JRecord)
  | inert (w : Word32)
  deriving DecidableEq, Repr

/-- The classifier's result: `Illegal` is a value, not an abort (R65). -/
inductive DecodeResult where
  | instr (inst : Instruction)
  | illegal
  deriving DecidableEq, Repr

/-- OP (R66). -/
abbrev opcOp : BitVec 7 := 0b0110011
/-- OP-32 (R66). -/
abbrev opcOp32 : BitVec 7 := 0b0111011
/-- OP-IMM (R66). -/
abbrev opcOpImm : BitVec 7 := 0b0010011
/-- OP-IMM-32 (R66). -/
abbrev opcOpImm32 : BitVec 7 := 0b0011011
/-- LOAD (R66). -/
abbrev opcLoad : BitVec 7 := 0b0000011
/-- JALR (R66). -/
abbrev opcJalr : BitVec 7 := 0b1100111
/-- STORE (R66). -/
abbrev opcStore : BitVec 7 := 0b0100011
/-- BRANCH (R66). -/
abbrev opcBranch : BitVec 7 := 0b1100011
/-- LUI (R66). -/
abbrev opcLui : BitVec 7 := 0b0110111
/-- AUIPC (R66). -/
abbrev opcAuipc : BitVec 7 := 0b0010111
/-- JAL (R66). -/
abbrev opcJal : BitVec 7 := 0b1101111
/-- MISC-MEM (R66). -/
abbrev opcMiscMem : BitVec 7 := 0b0001111
/-- SYSTEM (R66). -/
abbrev opcSystem : BitVec 7 := 0b1110011

/-- The word forms of OP-IMM-32 and OP-32 use funct3 000, 001 and 101 only (R71, R72). -/
def wordFunct3 (f3 : BitVec 3) : Bool := f3 == 0b000 || f3 == 0b001 || f3 == 0b101

/-- The classifier, total over all words (R74). -/
def classify (w : Word32) : DecodeResult :=
  if opcode w = opcOp then .instr (.r (extractR w))
  else if opcode w = opcOp32 then
    if wordFunct3 (funct3 w) then .instr (.r (extractR w)) else .illegal
  else if opcode w = opcOpImm then .instr (.i (extractI w))
  else if opcode w = opcOpImm32 then
    if wordFunct3 (funct3 w) then .instr (.i (extractI w)) else .illegal
  else if opcode w = opcLoad then
    if funct3 w ≠ 0b111 then .instr (.i (extractI w)) else .illegal
  else if opcode w = opcJalr then
    if funct3 w = 0b000 then .instr (.i (extractI w)) else .illegal
  else if opcode w = opcStore then
    if (funct3 w).toNat ≤ 0b011 then .instr (.s (extractS w)) else .illegal
  else if opcode w = opcBranch then
    if funct3 w ≠ 0b010 ∧ funct3 w ≠ 0b011 then .instr (.b (extractB w)) else .illegal
  else if opcode w = opcLui ∨ opcode w = opcAuipc then .instr (.u (extractU w))
  else if opcode w = opcJal then .instr (.j (extractJ w))
  else if opcode w = opcMiscMem ∨ opcode w = opcSystem then .instr (.inert w)
  else .illegal

/-! ## Selection of the operation (R82 to R85) -/

/-- Why bytes stand for no instruction. Each but `truncated` ends a step in IllegalInstruction (R164);
`truncated` is for a caller with fewer than 4 bytes, which a fetch never is (R78). -/
inductive DecodeReject where
  /-- Fewer than 4 bytes were given (R41, R78). -/
  | truncated
  /-- The classifier's `Illegal` (R76). -/
  | illegalEncoding
  /-- An unassigned funct7 or shift discriminator inside an assigned pair (R84). -/
  | unassignedSelector
  /-- A record the classifier never produces (R85). -/
  | foreignRecord
  deriving DecidableEq, Repr

/-- `execR`'s selection on (opcode, funct3, funct7) (R83, R84). -/
def selectR (r : RRecord) : Except DecodeReject Instr :=
  if r.opcode = opcOp then
    if r.funct7 = 0b0000000 then
      match r.funct3 with
      | 0b000 => .ok (.add r.rd r.rs1 r.rs2)
      | 0b001 => .ok (.sll r.rd r.rs1 r.rs2)
      | 0b010 => .ok (.slt r.rd r.rs1 r.rs2)
      | 0b011 => .ok (.sltu r.rd r.rs1 r.rs2)
      | 0b100 => .ok (.xor r.rd r.rs1 r.rs2)
      | 0b101 => .ok (.srl r.rd r.rs1 r.rs2)
      | 0b110 => .ok (.or r.rd r.rs1 r.rs2)
      | _ => .ok (.and r.rd r.rs1 r.rs2)
    else if r.funct7 = 0b0100000 then
      match r.funct3 with
      | 0b000 => .ok (.sub r.rd r.rs1 r.rs2)
      | 0b101 => .ok (.sra r.rd r.rs1 r.rs2)
      | _ => .error .unassignedSelector
    else .error .unassignedSelector
  else if r.opcode = opcOp32 then
    if r.funct7 = 0b0000000 then
      match r.funct3 with
      | 0b000 => .ok (.addw r.rd r.rs1 r.rs2)
      | 0b001 => .ok (.sllw r.rd r.rs1 r.rs2)
      | 0b101 => .ok (.srlw r.rd r.rs1 r.rs2)
      | _ => .error .foreignRecord
    else if r.funct7 = 0b0100000 then
      match r.funct3 with
      | 0b000 => .ok (.subw r.rd r.rs1 r.rs2)
      | 0b101 => .ok (.sraw r.rd r.rs1 r.rs2)
      | _ => .error .unassignedSelector
    else .error .unassignedSelector
  else .error .foreignRecord

/-- `execI`'s selection: OP-IMM, its 64-bit shifts on `disc6` (R63, R83, R84). -/
def selectOpImm (r : IRecord) : Except DecodeReject Instr :=
  match r.funct3 with
  | 0b000 => .ok (.addi r.rd r.rs1 r.imm)
  | 0b010 => .ok (.slti r.rd r.rs1 r.imm)
  | 0b011 => .ok (.sltiu r.rd r.rs1 r.imm)
  | 0b100 => .ok (.xori r.rd r.rs1 r.imm)
  | 0b110 => .ok (.ori r.rd r.rs1 r.imm)
  | 0b111 => .ok (.andi r.rd r.rs1 r.imm)
  | 0b001 =>
    if disc6 r.imm = 0b000000 then .ok (.slli r.rd r.rs1 (shamt6 r.imm))
    else .error .unassignedSelector
  | _ =>
    if disc6 r.imm = 0b000000 then .ok (.srli r.rd r.rs1 (shamt6 r.imm))
    else if disc6 r.imm = 0b010000 then .ok (.srai r.rd r.rs1 (shamt6 r.imm))
    else .error .unassignedSelector

/-- `execI`'s selection: OP-IMM-32, its word shifts on `disc7` (R64, R83, R84). -/
def selectOpImm32 (r : IRecord) : Except DecodeReject Instr :=
  match r.funct3 with
  | 0b000 => .ok (.addiw r.rd r.rs1 r.imm)
  | 0b001 =>
    if disc7 r.imm = 0b0000000 then .ok (.slliw r.rd r.rs1 (shamt5 r.imm))
    else .error .unassignedSelector
  | 0b101 =>
    if disc7 r.imm = 0b0000000 then .ok (.srliw r.rd r.rs1 (shamt5 r.imm))
    else if disc7 r.imm = 0b0100000 then .ok (.sraiw r.rd r.rs1 (shamt5 r.imm))
    else .error .unassignedSelector
  | _ => .error .foreignRecord

/-- `execI`'s selection: LOAD on funct3 (R67, R83). -/
def selectLoad (r : IRecord) : Except DecodeReject Instr :=
  match r.funct3 with
  | 0b000 => .ok (.lb r.rd r.rs1 r.imm)
  | 0b001 => .ok (.lh r.rd r.rs1 r.imm)
  | 0b010 => .ok (.lw r.rd r.rs1 r.imm)
  | 0b011 => .ok (.ld r.rd r.rs1 r.imm)
  | 0b100 => .ok (.lbu r.rd r.rs1 r.imm)
  | 0b101 => .ok (.lhu r.rd r.rs1 r.imm)
  | 0b110 => .ok (.lwu r.rd r.rs1 r.imm)
  | _ => .error .foreignRecord

/-- `execI`'s selection, keyed on opcode first (R83). -/
def selectI (r : IRecord) : Except DecodeReject Instr :=
  if r.opcode = opcOpImm then selectOpImm r
  else if r.opcode = opcOpImm32 then selectOpImm32 r
  else if r.opcode = opcLoad then selectLoad r
  else if r.opcode = opcJalr ∧ r.funct3 = 0b000 then .ok (.jalr r.rd r.rs1 r.imm)
  else .error .foreignRecord

/-- `execS`'s selection on funct3 (R68, R83). -/
def selectS (r : SRecord) : Except DecodeReject Instr :=
  if r.opcode = opcStore then
    match r.funct3 with
    | 0b000 => .ok (.sb r.rs2 r.rs1 r.imm)
    | 0b001 => .ok (.sh r.rs2 r.rs1 r.imm)
    | 0b010 => .ok (.sw r.rs2 r.rs1 r.imm)
    | 0b011 => .ok (.sd r.rs2 r.rs1 r.imm)
    | _ => .error .foreignRecord
  else .error .foreignRecord

/-- `execB`'s selection on funct3 (R69, R83). -/
def selectB (r : BRecord) : Except DecodeReject Instr :=
  if r.opcode = opcBranch then
    match r.funct3 with
    | 0b000 => .ok (.beq r.rs1 r.rs2 r.imm)
    | 0b001 => .ok (.bne r.rs1 r.rs2 r.imm)
    | 0b100 => .ok (.blt r.rs1 r.rs2 r.imm)
    | 0b101 => .ok (.bge r.rs1 r.rs2 r.imm)
    | 0b110 => .ok (.bltu r.rs1 r.rs2 r.imm)
    | 0b111 => .ok (.bgeu r.rs1 r.rs2 r.imm)
    | _ => .error .foreignRecord
  else .error .foreignRecord

/-- `execU`'s selection on opcode (R83). -/
def selectU (r : URecord) : Except DecodeReject Instr :=
  if r.opcode = opcLui then .ok (.lui r.rd r.imm)
  else if r.opcode = opcAuipc then .ok (.auipc r.rd r.imm)
  else .error .foreignRecord

/-- `execJ`'s selection (R83). -/
def selectJ (r : JRecord) : Except DecodeReject Instr :=
  if r.opcode = opcJal then .ok (.jal r.rd r.imm) else .error .foreignRecord

/-- The row of the opcode table that names a MISC-MEM word (R151, R152, R161). -/
def nameMiscMem (w : Word32) : Instr :=
  match funct3 w with
  | 0b000 => .fence (bits w 28 4) (bits w 24 4) (bits w 20 4) (fieldRs1 w) (fieldRd w)
  | 0b001 => .fenceI (fieldRd w) (fieldRs1 w) (immI w)
  | _ => .miscMemOther w

/-- The row of the opcode table that names a SYSTEM word (R153 to R161). -/
def nameSystem (w : Word32) : Instr :=
  match funct3 w with
  | 0b000 =>
    if w = 0x00000073 then .ecall else if w = 0x00100073 then .ebreak else .systemOther w
  | 0b001 => .csrrw (fieldRd w) (fieldRs1 w) (bits w 20 12)
  | 0b010 => .csrrs (fieldRd w) (fieldRs1 w) (bits w 20 12)
  | 0b011 => .csrrc (fieldRd w) (fieldRs1 w) (bits w 20 12)
  | 0b101 => .csrrwi (fieldRd w) (bits w 15 5) (bits w 20 12)
  | 0b110 => .csrrsi (fieldRd w) (bits w 15 5) (bits w 20 12)
  | 0b111 => .csrrci (fieldRd w) (bits w 15 5) (bits w 20 12)
  | _ => .systemOther w

/-- The Inert tag: no handler (R82); the word only gets the name its table row gives it, and every such
name has the same effect (R150). -/
def selectInert (w : Word32) : Except DecodeReject Instr :=
  if opcode w = opcMiscMem then .ok (nameMiscMem w)
  else if opcode w = opcSystem then .ok (nameSystem w)
  else .error .foreignRecord

/-- The dispatch multiplexer's routing, exhaustive over the seven tags (R82). -/
def select : Instruction → Except DecodeReject Instr
  | .r rec => selectR rec
  | .i rec => selectI rec
  | .s rec => selectS rec
  | .b rec => selectB rec
  | .u rec => selectU rec
  | .j rec => selectJ rec
  | .inert w => selectInert w

/-- The operation a raw word names, or why it names none: the classifier (R74), then the selection
(R83, R84). -/
def decodeWord (w : Word32) : Except DecodeReject Instr :=
  match classify w with
  | .illegal => .error .illegalEncoding
  | .instr inst => select inst

/-- `w = b0 | b1<<8 | b2<<16 | b3<<24`, where `b0` is the byte at the lowest address (R50). -/
def wordOfBytes (b0 b1 b2 b3 : Byte) : Word32 :=
  place 32 b0 0 ||| place 32 b1 8 ||| place 32 b2 16 ||| place 32 b3 24

/-- Decoding a byte list: the instruction of its first 4 bytes and the bytes after them. -/
def decodeBytes : List Byte → Except DecodeReject (Instr × List Byte)
  | b0 :: b1 :: b2 :: b3 :: rest =>
    match decodeWord (wordOfBytes b0 b1 b2 b3) with
    | .ok i => .ok (i, rest)
    | .error e => .error e
  | _ => .error .truncated

/-- The word's bytes in the order memory holds them, lowest address first (R50). -/
def bytesOfWord (w : Word32) : List Byte := [bits w 0 8, bits w 8 8, bits w 16 8, bits w 24 8]

/-- The instruction word whose low `nbits` bits are those of `w` and whose other bits are 0: the
numbering of spec/opcode_table.json. -/
def tableWord (nbits w : Nat) : Word32 := BitVec.ofNat 32 (w % 2 ^ nbits)

/-- What the decoder reads from an opcode-table word laid out as memory holds it. -/
def decodeTableWord (nbits w : Nat) : Option Instr :=
  match decodeBytes (bytesOfWord (tableWord nbits w)) with
  | .ok (i, _) => some i
  | .error _ => none

/-! ## The encoder: the same layouts, read the other way (R53 to R60) -/

/-- An R-format word (R55). -/
def encodeR (f7 : BitVec 7) (rs2 rs1 : Reg) (f3 : BitVec 3) (rd : Reg) (opc : BitVec 7) : Word32 :=
  place 32 f7 25 ||| place 32 (regBits rs2) 20 ||| place 32 (regBits rs1) 15 ||| place 32 f3 12 |||
    place 32 (regBits rd) 7 ||| place 32 opc 0

/-- An I-format word (R56). -/
def encodeI (imm : BitVec 12) (rs1 : Reg) (f3 : BitVec 3) (rd : Reg) (opc : BitVec 7) : Word32 :=
  place 32 imm 20 ||| place 32 (regBits rs1) 15 ||| place 32 f3 12 ||| place 32 (regBits rd) 7 |||
    place 32 opc 0

/-- A 64-bit shift-immediate word: `disc6` above the 6-bit amount (R63). -/
def encodeShift6 (d : BitVec 6) (shamt : BitVec 6) (rs1 : Reg) (f3 : BitVec 3) (rd : Reg)
    (opc : BitVec 7) : Word32 :=
  encodeI (place 12 d 6 ||| place 12 shamt 0) rs1 f3 rd opc

/-- A word shift-immediate word: `disc7` above the 5-bit amount (R64). -/
def encodeShift5 (d : BitVec 7) (shamt : BitVec 5) (rs1 : Reg) (f3 : BitVec 3) (rd : Reg)
    (opc : BitVec 7) : Word32 :=
  encodeI (place 12 d 5 ||| place 12 shamt 0) rs1 f3 rd opc

/-- An S-format word (R57). -/
def encodeS (imm : BitVec 12) (rs2 rs1 : Reg) (f3 : BitVec 3) (opc : BitVec 7) : Word32 :=
  place 32 (imm.extractLsb' 5 7) 25 ||| place 32 (regBits rs2) 20 ||| place 32 (regBits rs1) 15 |||
    place 32 f3 12 ||| place 32 (imm.extractLsb' 0 5) 7 ||| place 32 opc 0

/-- A B-format word (R58). -/
def encodeB (imm : BitVec 13) (rs2 rs1 : Reg) (f3 : BitVec 3) (opc : BitVec 7) : Word32 :=
  place 32 (imm.extractLsb' 12 1) 31 ||| place 32 (imm.extractLsb' 5 6) 25 |||
    place 32 (regBits rs2) 20 ||| place 32 (regBits rs1) 15 ||| place 32 f3 12 |||
    place 32 (imm.extractLsb' 1 4) 8 ||| place 32 (imm.extractLsb' 11 1) 7 ||| place 32 opc 0

/-- A U-format word (R59). -/
def encodeU (imm : BitVec 32) (rd : Reg) (opc : BitVec 7) : Word32 :=
  place 32 (imm.extractLsb' 12 20) 12 ||| place 32 (regBits rd) 7 ||| place 32 opc 0

/-- A J-format word (R60). -/
def encodeJ (imm : BitVec 21) (rd : Reg) (opc : BitVec 7) : Word32 :=
  place 32 (imm.extractLsb' 20 1) 31 ||| place 32 (imm.extractLsb' 1 10) 21 |||
    place 32 (imm.extractLsb' 11 1) 20 ||| place 32 (imm.extractLsb' 12 8) 12 |||
    place 32 (regBits rd) 7 ||| place 32 opc 0

/-- The word of a well-formed instruction, from the encodings of R95 to R161. -/
def encode : Instr → Word32
  | .addi rd rs1 imm => encodeI imm rs1 0b000 rd opcOpImm
  | .slti rd rs1 imm => encodeI imm rs1 0b010 rd opcOpImm
  | .sltiu rd rs1 imm => encodeI imm rs1 0b011 rd opcOpImm
  | .xori rd rs1 imm => encodeI imm rs1 0b100 rd opcOpImm
  | .ori rd rs1 imm => encodeI imm rs1 0b110 rd opcOpImm
  | .andi rd rs1 imm => encodeI imm rs1 0b111 rd opcOpImm
  | .slli rd rs1 shamt => encodeShift6 0b000000 shamt rs1 0b001 rd opcOpImm
  | .srli rd rs1 shamt => encodeShift6 0b000000 shamt rs1 0b101 rd opcOpImm
  | .srai rd rs1 shamt => encodeShift6 0b010000 shamt rs1 0b101 rd opcOpImm
  | .addiw rd rs1 imm => encodeI imm rs1 0b000 rd opcOpImm32
  | .slliw rd rs1 shamt => encodeShift5 0b0000000 shamt rs1 0b001 rd opcOpImm32
  | .srliw rd rs1 shamt => encodeShift5 0b0000000 shamt rs1 0b101 rd opcOpImm32
  | .sraiw rd rs1 shamt => encodeShift5 0b0100000 shamt rs1 0b101 rd opcOpImm32
  | .lui rd imm => encodeU imm rd opcLui
  | .auipc rd imm => encodeU imm rd opcAuipc
  | .add rd rs1 rs2 => encodeR 0b0000000 rs2 rs1 0b000 rd opcOp
  | .sub rd rs1 rs2 => encodeR 0b0100000 rs2 rs1 0b000 rd opcOp
  | .sll rd rs1 rs2 => encodeR 0b0000000 rs2 rs1 0b001 rd opcOp
  | .slt rd rs1 rs2 => encodeR 0b0000000 rs2 rs1 0b010 rd opcOp
  | .sltu rd rs1 rs2 => encodeR 0b0000000 rs2 rs1 0b011 rd opcOp
  | .xor rd rs1 rs2 => encodeR 0b0000000 rs2 rs1 0b100 rd opcOp
  | .srl rd rs1 rs2 => encodeR 0b0000000 rs2 rs1 0b101 rd opcOp
  | .sra rd rs1 rs2 => encodeR 0b0100000 rs2 rs1 0b101 rd opcOp
  | .or rd rs1 rs2 => encodeR 0b0000000 rs2 rs1 0b110 rd opcOp
  | .and rd rs1 rs2 => encodeR 0b0000000 rs2 rs1 0b111 rd opcOp
  | .addw rd rs1 rs2 => encodeR 0b0000000 rs2 rs1 0b000 rd opcOp32
  | .subw rd rs1 rs2 => encodeR 0b0100000 rs2 rs1 0b000 rd opcOp32
  | .sllw rd rs1 rs2 => encodeR 0b0000000 rs2 rs1 0b001 rd opcOp32
  | .srlw rd rs1 rs2 => encodeR 0b0000000 rs2 rs1 0b101 rd opcOp32
  | .sraw rd rs1 rs2 => encodeR 0b0100000 rs2 rs1 0b101 rd opcOp32
  | .jal rd imm => encodeJ imm rd opcJal
  | .jalr rd rs1 imm => encodeI imm rs1 0b000 rd opcJalr
  | .beq rs1 rs2 imm => encodeB imm rs2 rs1 0b000 opcBranch
  | .bne rs1 rs2 imm => encodeB imm rs2 rs1 0b001 opcBranch
  | .blt rs1 rs2 imm => encodeB imm rs2 rs1 0b100 opcBranch
  | .bge rs1 rs2 imm => encodeB imm rs2 rs1 0b101 opcBranch
  | .bltu rs1 rs2 imm => encodeB imm rs2 rs1 0b110 opcBranch
  | .bgeu rs1 rs2 imm => encodeB imm rs2 rs1 0b111 opcBranch
  | .lb rd rs1 imm => encodeI imm rs1 0b000 rd opcLoad
  | .lh rd rs1 imm => encodeI imm rs1 0b001 rd opcLoad
  | .lw rd rs1 imm => encodeI imm rs1 0b010 rd opcLoad
  | .ld rd rs1 imm => encodeI imm rs1 0b011 rd opcLoad
  | .lbu rd rs1 imm => encodeI imm rs1 0b100 rd opcLoad
  | .lhu rd rs1 imm => encodeI imm rs1 0b101 rd opcLoad
  | .lwu rd rs1 imm => encodeI imm rs1 0b110 rd opcLoad
  | .sb rs2 rs1 imm => encodeS imm rs2 rs1 0b000 opcStore
  | .sh rs2 rs1 imm => encodeS imm rs2 rs1 0b001 opcStore
  | .sw rs2 rs1 imm => encodeS imm rs2 rs1 0b010 opcStore
  | .sd rs2 rs1 imm => encodeS imm rs2 rs1 0b011 opcStore
  | .fence fm pred succ rs1 rd =>
    encodeI (place 12 fm 8 ||| place 12 pred 4 ||| place 12 succ 0) rs1 0b000 rd opcMiscMem
  | .fenceI rd rs1 imm => encodeI imm rs1 0b001 rd opcMiscMem
  | .ecall => 0x00000073
  | .ebreak => 0x00100073
  | .csrrw rd rs1 csr => encodeI csr rs1 0b001 rd opcSystem
  | .csrrs rd rs1 csr => encodeI csr rs1 0b010 rd opcSystem
  | .csrrc rd rs1 csr => encodeI csr rs1 0b011 rd opcSystem
  | .csrrwi rd uimm csr => encodeI csr (regOf uimm) 0b101 rd opcSystem
  | .csrrsi rd uimm csr => encodeI csr (regOf uimm) 0b110 rd opcSystem
  | .csrrci rd uimm csr => encodeI csr (regOf uimm) 0b111 rd opcSystem
  | .miscMemOther w => w
  | .systemOther w => w

/-! ## The opcode table's match and mask values (spec/opcode_table.json) -/

/-- One row's fixed bits: a word `w` is of the row when `w &&& mask = pattern`. -/
structure TableRow where
  pattern : Word32
  mask : Word32
  deriving DecidableEq, Repr

/-- The word has the row's fixed bits. -/
def TableRow.fits (row : TableRow) (w : Word32) : Bool := w &&& row.mask == row.pattern

/-- The row of an instruction, its match and mask as the table writes them. -/
def Instr.tableRow : Instr → TableRow
  | .addi _ _ _ => ⟨0x00000013, 0x0000707F⟩
  | .slti _ _ _ => ⟨0x00002013, 0x0000707F⟩
  | .sltiu _ _ _ => ⟨0x00003013, 0x0000707F⟩
  | .xori _ _ _ => ⟨0x00004013, 0x0000707F⟩
  | .ori _ _ _ => ⟨0x00006013, 0x0000707F⟩
  | .andi _ _ _ => ⟨0x00007013, 0x0000707F⟩
  | .slli _ _ _ => ⟨0x00001013, 0xFC00707F⟩
  | .srli _ _ _ => ⟨0x00005013, 0xFC00707F⟩
  | .srai _ _ _ => ⟨0x40005013, 0xFC00707F⟩
  | .addiw _ _ _ => ⟨0x0000001B, 0x0000707F⟩
  | .slliw _ _ _ => ⟨0x0000101B, 0xFE00707F⟩
  | .srliw _ _ _ => ⟨0x0000501B, 0xFE00707F⟩
  | .sraiw _ _ _ => ⟨0x4000501B, 0xFE00707F⟩
  | .lui _ _ => ⟨0x00000037, 0x0000007F⟩
  | .auipc _ _ => ⟨0x00000017, 0x0000007F⟩
  | .add _ _ _ => ⟨0x00000033, 0xFE00707F⟩
  | .sub _ _ _ => ⟨0x40000033, 0xFE00707F⟩
  | .sll _ _ _ => ⟨0x00001033, 0xFE00707F⟩
  | .slt _ _ _ => ⟨0x00002033, 0xFE00707F⟩
  | .sltu _ _ _ => ⟨0x00003033, 0xFE00707F⟩
  | .xor _ _ _ => ⟨0x00004033, 0xFE00707F⟩
  | .srl _ _ _ => ⟨0x00005033, 0xFE00707F⟩
  | .sra _ _ _ => ⟨0x40005033, 0xFE00707F⟩
  | .or _ _ _ => ⟨0x00006033, 0xFE00707F⟩
  | .and _ _ _ => ⟨0x00007033, 0xFE00707F⟩
  | .addw _ _ _ => ⟨0x0000003B, 0xFE00707F⟩
  | .subw _ _ _ => ⟨0x4000003B, 0xFE00707F⟩
  | .sllw _ _ _ => ⟨0x0000103B, 0xFE00707F⟩
  | .srlw _ _ _ => ⟨0x0000503B, 0xFE00707F⟩
  | .sraw _ _ _ => ⟨0x4000503B, 0xFE00707F⟩
  | .jal _ _ => ⟨0x0000006F, 0x0000007F⟩
  | .jalr _ _ _ => ⟨0x00000067, 0x0000707F⟩
  | .beq _ _ _ => ⟨0x00000063, 0x0000707F⟩
  | .bne _ _ _ => ⟨0x00001063, 0x0000707F⟩
  | .blt _ _ _ => ⟨0x00004063, 0x0000707F⟩
  | .bge _ _ _ => ⟨0x00005063, 0x0000707F⟩
  | .bltu _ _ _ => ⟨0x00006063, 0x0000707F⟩
  | .bgeu _ _ _ => ⟨0x00007063, 0x0000707F⟩
  | .lb _ _ _ => ⟨0x00000003, 0x0000707F⟩
  | .lh _ _ _ => ⟨0x00001003, 0x0000707F⟩
  | .lw _ _ _ => ⟨0x00002003, 0x0000707F⟩
  | .ld _ _ _ => ⟨0x00003003, 0x0000707F⟩
  | .lbu _ _ _ => ⟨0x00004003, 0x0000707F⟩
  | .lhu _ _ _ => ⟨0x00005003, 0x0000707F⟩
  | .lwu _ _ _ => ⟨0x00006003, 0x0000707F⟩
  | .sb _ _ _ => ⟨0x00000023, 0x0000707F⟩
  | .sh _ _ _ => ⟨0x00001023, 0x0000707F⟩
  | .sw _ _ _ => ⟨0x00002023, 0x0000707F⟩
  | .sd _ _ _ => ⟨0x00003023, 0x0000707F⟩
  | .fence _ _ _ _ _ => ⟨0x0000000F, 0x0000707F⟩
  | .fenceI _ _ _ => ⟨0x0000100F, 0x0000707F⟩
  | .ecall => ⟨0x00000073, 0xFFFFFFFF⟩
  | .ebreak => ⟨0x00100073, 0xFFFFFFFF⟩
  | .csrrw _ _ _ => ⟨0x00001073, 0x0000707F⟩
  | .csrrs _ _ _ => ⟨0x00002073, 0x0000707F⟩
  | .csrrc _ _ _ => ⟨0x00003073, 0x0000707F⟩
  | .csrrwi _ _ _ => ⟨0x00005073, 0x0000707F⟩
  | .csrrsi _ _ _ => ⟨0x00006073, 0x0000707F⟩
  | .csrrci _ _ _ => ⟨0x00007073, 0x0000707F⟩
  | .miscMemOther _ => ⟨0x0000000F, 0x0000007F⟩
  | .systemOther _ => ⟨0x00000073, 0x0000007F⟩

end Sys2Proof
end

