-- ==== Sys2Proof/Config.lean ====
section
/-! DEFINITION. The construction parameters of 00_scope.md R8, at the values `State.reset` uses. The
spec fixes none of them (91_not_in_source.md N7, N12), so each is a DESIGN CHOICE with a log entry; no
rule of the model reads one of them, since `MEM_BASE`, `MEM_SIZE` and the memory contents are data of
`State` and every statement about a state holds for all of them. -/

namespace Sys2Proof.Config

/-- `MEM_BASE` after reset. DESIGN CHOICE (log entry 1), unsafe: the spec leaves it a parameter. -/
def memBase : Nat := 0

/-- `MEM_SIZE` after reset: the whole 64-bit byte address space. DESIGN CHOICE (log entry 1), unsafe. -/
def memSize : Nat := 2 ^ 64

/-- `INIT_PC` after reset, equal to `MEM_BASE` (R181's conventional start). DESIGN CHOICE (log entry 2),
unsafe. -/
def initPc : Word := 0

/-- `INIT_REGS` after reset, all zero (R181's conventional start). DESIGN CHOICE (log entry 3), unsafe. -/
def initRegs : Vector Word 32 := Vector.replicate 32 0

/-- What a byte of the range that no cell lists reads as. DESIGN CHOICE (log entry 4), unsafe: the spec
makes the contents at construction, `MEM_INIT`, a parameter. -/
def unlistedByte : Byte := 0

end Sys2Proof.Config
end

