-- ==== Sys2Proof/Machine/State.lean ====
section
/-! DEFINITION. The machine's state as plain data (10_state.md R28: the register file, the pc and the
status), with the memory collaborator's contents and range (20_memory.md R33) beside it; the exception
record (60_exceptions.md R163); construction and reset (70_reset_and_hazards.md R181). -/

namespace Sys2Proof.Machine

/-- The closed set of four exception kinds (R162). -/
inductive ExceptionKind where
  | illegalInstruction
  | fetchFault
  | alignmentFault
  | memoryAccessFault
  deriving DecidableEq, Repr

/-- Where an exception arose (R163). -/
inductive Access where
  | fetch
  | decode
  | jump
  | branch
  | load
  | store
  deriving DecidableEq, Repr

/-- The exception record (R163): `pc` is the step-start pc of the failed step, `addr` the faulting
address, or the zero-extended instruction word when `access` is `decode`. -/
structure Exception where
  kind : ExceptionKind
  pc : Word
  access : Access
  addr : Word
  deriving DecidableEq, Repr

/-- The two states of the engine (R26). -/
inductive Status where
  | runnable
  | trapped (e : Exception)
  deriving DecidableEq, Repr

/-- The memory collaborator (R33): the range `[base, base + size)` and its bytes. `cells` lists, by
rising address, the bytes that differ from `Config.unlistedByte`. -/
structure Memory where
  base : Nat
  size : Nat
  cells : List Host.Cell
  deriving DecidableEq, Repr

/-- The one form a memory has: addresses strictly rising, no listed byte equal to what an unlisted one
reads as, every listed address in the range; and R8's constraints on the range. -/
abbrev Memory.wf (m : Memory) : Prop :=
  m.cells.Pairwise (fun c d => c.1 < d.1) ∧
  (∀ c ∈ m.cells, c.2 ≠ Config.unlistedByte ∧ m.base ≤ c.1 ∧ c.1 < m.base + m.size) ∧
  1 ≤ m.size ∧ m.base + m.size ≤ 2 ^ 64

/-- Everything the spec gives the machine (R28, R33, R192). `regcell` is the storage behind `x[0..31]`:
it is read only through the zero guard of R17 (`readReg`). -/
structure State where
  regcell : Vector Word 32
  pc : Word
  status : Status
  mem : Memory
  deriving DecidableEq, Repr

/-- Construction, the only reset (R181, R182): status Runnable, the given registers and pc, and the
collaborator's memory as it is. -/
def State.construct (initRegs : Vector Word 32) (initPc : Word) (mem : Memory) : State :=
  { regcell := initRegs, pc := initPc, status := .runnable, mem := mem }

/-- The machine right after reset: construction (R181) with the parameter values of Config.lean, and a
memory that lists nothing. DESIGN CHOICE (log entries 1 to 4), unsafe: the spec leaves the parameters
open. -/
def State.reset : State :=
  State.construct Config.initRegs Config.initPc
    { base := Config.memBase, size := Config.memSize, cells := [] }

/-- What stops the machine with no next state: nothing does. Every failure the spec describes is an
exception that a step takes into a next state (R171), so no constructor is needed and nobody raises one;
safe, since no run is cut short (log entry 8). -/
inductive Fault where
  deriving DecidableEq, Repr

/-- Instructions without a meaning. -/
inductive Refusal where
  /-- Raised by `exec` for an instruction that has no meaning yet, by the table's mnemonic; safe. No arm
  raises it: every instruction has its meaning. -/
  | notModelled (mnemonic : String)
  deriving DecidableEq, Repr

/-- The outcome of one step of this machine. -/
abbrev StepOutcome := Host.Outcome State Fault Refusal

end Sys2Proof.Machine
end

