-- ==== Sys2Proof/Machine/Ops.lean ====
section
/-! DEFINITION. The named operations over registers, memory and the whole state: the zero guard (R17,
R18), bytes and little-endian accesses (R34 to R40), a handler's effects and their commitment (R81, R87
to R90), taking an exception (R171), and introspection (R29). There is no return from an exception: no
instruction leaves Trapped (R175). -/

namespace Sys2Proof.Machine

/-! ## State updates -/

/-- The state with another pc. -/
def setPc (pc : Word) (s : State) : State := { s with pc := pc }

/-- The state with another status. -/
def setStatus (st : Status) (s : State) : State := { s with status := st }

/-- The state with another memory. -/
def setMem (m : Memory) (s : State) : State := { s with mem := m }

/-! ## Registers -/

/-- `x[r]`: a read through the zero guard (R17). -/
def readReg (s : State) (r : Reg) : Word := if r = 0 then 0 else s.regcell[r]

/-- `x[rd] <- v`: a write to index 0 is accepted and discarded (R18, R88). DESIGN CHOICE (log entry 5),
safe: R18 lets a model drop or store it, and the guard makes the two indistinguishable. -/
def writeReg (rd : Reg) (v : Word) (s : State) : State :=
  if rd = 0 then s else { s with regcell := s.regcell.set rd v }

/-! ## Memory -/

/-- The byte a cell list gives an address. -/
def lookupCell : List Host.Cell → Nat → Byte
  | [], _ => Config.unlistedByte
  | (k, b) :: rest, a => if k = a then b else lookupCell rest a

/-- The cell list with the byte `b` at address `a`, in canonical form when the list was. -/
def insertCell : List Host.Cell → Nat → Byte → List Host.Cell
  | [], a, b => if b = Config.unlistedByte then [] else [(a, b)]
  | (k, c) :: rest, a, b =>
    if a < k then
      if b = Config.unlistedByte then (k, c) :: rest else (a, b) :: (k, c) :: rest
    else if a = k then
      if b = Config.unlistedByte then rest else (a, b) :: rest
    else (k, c) :: insertCell rest a b

/-- `InRange(a, n)`, in unbounded integers with no wrap (R34). -/
def Memory.inRange (m : Memory) (a n : Nat) : Bool := m.base ≤ a && a + n ≤ m.base + m.size

/-- One byte of memory. -/
def Memory.readByte (m : Memory) (a : Nat) : Byte := lookupCell m.cells a

/-- Writing one byte; an address outside the range holds no byte, so nothing changes there (R35). -/
def Memory.writeByte (m : Memory) (a : Nat) (b : Byte) : Memory :=
  if m.inRange a 1 then { m with cells := insertCell m.cells a b } else m

/-- The little-endian sum of the `n` bytes at `a` (R36). -/
def Memory.readLE (m : Memory) (a : Nat) : Nat → Nat
  | 0 => 0
  | n + 1 => m.readLE a n + (m.readByte (a + n)).toNat * 2 ^ (8 * n)

/-- `byte[a + k] <- v[8k+7 : 8k]` for `k < n` (R37). -/
def Memory.writeLE (m : Memory) (a : Nat) (v : Word) : Nat → Memory
  | 0 => m
  | n + 1 => (m.writeLE a v n).writeByte (a + n) (v.extractLsb' (8 * n) 8)

/-- What `raise <Kind>(access, addr)` carries (R11); the pc is added when the exception is taken. -/
structure Raise where
  kind : ExceptionKind
  access : Access
  addr : Word
  deriving DecidableEq, Repr

/-- The kind of a range failure: a fetch has its own (R39). -/
def rangeKind : Access → ExceptionKind
  | .fetch => .fetchFault
  | _ => .memoryAccessFault

/-- The checks of an access of `n` bytes at `a`, alignment before range (R39, R40, R42). -/
def checkAccess (acc : Access) (a : Word) (n : Nat) (m : Memory) : Option Raise :=
  if a.toNat % n ≠ 0 then some ⟨.alignmentFault, acc, a⟩
  else if m.inRange a.toNat n then none
  else some ⟨rangeKind acc, acc, a⟩

/-- `MemRead(a, n, access)` (R39): an `n*8`-bit value. -/
def memRead (acc : Access) (a : Word) (n : Nat) (m : Memory) : Except Raise (BitVec (8 * n)) :=
  match checkAccess acc a n m with
  | some r => .error r
  | none => .ok (BitVec.ofNat (8 * n) (m.readLE a.toNat n))

/-- Step 1 of R88: the 4 bytes at the pc as one word (R50). -/
def fetchWord (s : State) : Except Raise Word32 := memRead .fetch s.pc 4 s.mem

/-! ## A handler's result and its commitment -/

/-- The advance signal (R81): use the default +4, or the pc was redirected to a target. -/
inductive Advance where
  | default
  | redirected (target : Word)
  deriving DecidableEq, Repr

/-- At most one memory write `(a, n, v)`, whose checks have passed (R87). -/
structure StoreEffect where
  addr : Word
  bytes : Nat
  value : Word
  deriving DecidableEq, Repr

/-- What a successful handler has committed (R87). -/
structure Effects where
  reg : Option (Reg × Word) := none
  store : Option StoreEffect := none
  advance : Advance := .default
  deriving DecidableEq, Repr

/-- A handler answers effects with their advance signal, or a failure (R80). -/
abbrev HandlerResult := Except Raise Effects

/-- Commit the memory write, if any. -/
def applyStore : Option StoreEffect → State → State
  | none, s => s
  | some e, s => setMem (s.mem.writeLE e.addr.toNat e.value e.bytes) s

/-- Commit the register write, if any. -/
def applyReg : Option (Reg × Word) → State → State
  | none, s => s
  | some (rd, v), s => writeReg rd v s

/-- The pc of the next state: `pc0 + 4 mod 2^64`, or the target, never both (R23, R89). -/
def nextPc (pc0 : Word) : Advance → Word
  | .default => pc0 + 4
  | .redirected target => target

/-- `commit eff` and the advance (R88): the memory write, the register write, the pc. -/
def commit (e : Effects) (s : State) : State :=
  setPc (nextPc s.pc e.advance) (applyReg e.reg (applyStore e.store s))

/-- Taking an exception (R171): the record of R163, with the step-start pc, goes into the status.
Nothing else changes (R172, R173). -/
def takeException (r : Raise) (s : State) : State :=
  setStatus (.trapped { kind := r.kind, pc := s.pc, access := r.access, addr := r.addr }) s

/-- All or nothing (R90): a handler's effects are all committed, or its exception is taken. -/
def complete (s : State) : HandlerResult → StepOutcome
  | .ok e => .next (commit e s)
  | .error r => .next (takeException r s)

/-- The exception of a word that names no operation: `access = Decode`, `addr = zext_32(w)` (R164). -/
def illegalInstruction (w : Word32) : Raise := ⟨.illegalInstruction, .decode, w.setWidth 64⟩

/-! ## Introspection and reporting -/

/-- A read of `x[i]` through introspection (R29), guarded like every read (R17). -/
def introspectReg (s : State) (i : Reg) : Word := readReg s i

/-- The recorded exception, through introspection (R29, R174). -/
def recordedException (s : State) : Option Exception :=
  match s.status with
  | .runnable => none
  | .trapped e => some e

/-- What `step()` returned, read from the state after it (R9, R88, R92): `Ok`, or `Err(e)` with the
recorded exception. DEDUCED (log entry 7), safe. -/
def stepResult (after : State) : Except Exception Unit :=
  match after.status with
  | .runnable => .ok ()
  | .trapped e => .error e

/-- The code of an exception kind in reports (R169). -/
def ExceptionKind.code : ExceptionKind → Nat
  | .illegalInstruction => 0
  | .fetchFault => 1
  | .alignmentFault => 2
  | .memoryAccessFault => 3

/-- The accesses each kind comes with (R169). -/
def ExceptionKind.accesses : ExceptionKind → List Access
  | .illegalInstruction => [.decode]
  | .fetchFault => [.fetch]
  | .alignmentFault => [.fetch, .jump, .branch, .load, .store]
  | .memoryAccessFault => [.load, .store]

end Sys2Proof.Machine
end

