-- ==== Sys2Proof/Machine/Operands.lean ====
section
/-! DEFINITION. Every operand form of the spec: extended immediates (00_scope.md R11, R12; 30_encoding.md
R56 to R60), 64-bit and word register operands, shift amounts (42_integer_register.md R110), effective
addresses (44_load_store.md R136) and control-transfer targets (43_control_transfer.md R126). All are
read from the step-start state (R86). -/

namespace Sys2Proof.Machine

/-- `sext_N(v)` (R11). -/
def sext {n : Nat} (v : BitVec n) : Word := v.signExtend 64

/-- `zext_N(v)` (R11). -/
def zext {n : Nat} (v : BitVec n) : Word := v.setWidth 64

/-- `v[31:0]`. -/
def low32 (v : Word) : Word32 := v.extractLsb' 0 32

/-- `x[r][31:0]`, a word operand. -/
def readWord (s : State) (r : Reg) : Word32 := low32 (readReg s r)

/-- The shift amount `x[rs2][5:0]` of a 64-bit register shift (R110). -/
def shiftAmount6 (s : State) (rs2 : Reg) : Nat := ((readReg s rs2).extractLsb' 0 6).toNat

/-- The shift amount `x[rs2][4:0]` of a word register shift (R110). -/
def shiftAmount5 (s : State) (rs2 : Reg) : Nat := ((readReg s rs2).extractLsb' 0 5).toNat

/-- `EA = x[rs1] + imm mod 2^64` (R136). -/
def effectiveAddress (s : State) (rs1 : Reg) (imm : BitVec 12) : Word := readReg s rs1 + sext imm

/-- `pc + imm`, the target of JAL and the branches (R126). -/
def pcRelative {n : Nat} (s : State) (imm : BitVec n) : Word := s.pc + sext imm

/-- `(x[rs1] + imm) & ~1`, the target of JALR (R126). -/
def jalrTarget (s : State) (rs1 : Reg) (imm : BitVec 12) : Word :=
  (readReg s rs1 + sext imm) &&& ~~~1

/-- `pc + 4`, the link value of JAL and JALR (R126). -/
def linkAddress (s : State) : Word := s.pc + 4

end Sys2Proof.Machine
end

