-- ==== Sys2Proof/Machine/Flags.lean ====
section
/-! DEFINITION. The hardware has no status flags and no condition codes (10_state.md R30): a comparison
gives a register value or a branch decision. The comparisons are here. -/

namespace Sys2Proof.Machine

/-- `a <s b` (R11). -/
def lessSigned (a b : Word) : Bool := a.toInt < b.toInt

/-- `a <u b` (R11). -/
def lessUnsigned (a b : Word) : Bool := a.toNat < b.toNat

/-- `if c then 1 else 0`, the result of SLT, SLTU, SLTI and SLTIU (R30). -/
def boolWord (c : Bool) : Word := if c then 1 else 0

end Sys2Proof.Machine
end

