-- ==== Sys2Proof/Machine/ControlTransfer.lean ====
section
/-! DEFINITION. JAL, JALR and the branches (43_control_transfer.md R126 to R135).
Targets are modulo 2^64 and must be multiples of 4; no target is range-checked (R127, log entries 11
and 18). -/

namespace Sys2Proof.Machine

/-- The target alignment check, 4 bytes (R127). -/
def checkTarget (acc : Access) (target : Word) : Option Raise :=
  if target.toNat % 4 ≠ 0 then some ⟨.alignmentFault, acc, target⟩ else none

/-- JAL and JALR after their target is computed (R126): the check, then the link write and the
redirect. -/
def jumpTo (rd : Reg) (target : Word) (s : State) : HandlerResult :=
  match checkTarget .jump target with
  | some r => .error r
  | none => .ok { reg := some (rd, linkAddress s), advance := .redirected target }

/-- A branch after its decision: taken, the check and the redirect; not taken, `Default` with no check
of the target (R127). -/
def branchIf (taken : Bool) (imm : BitVec 13) (s : State) : HandlerResult :=
  if taken then
    match checkTarget .branch (pcRelative s imm) with
    | some r => .error r
    | none => .ok { advance := .redirected (pcRelative s imm) }
  else .ok {}

/-- JAL: target `pc + imm`, `x[rd] <- pc + 4` (R128). -/
def execJal (rd : Reg) (imm : BitVec 21) (s : State) :
    Host.Outcome State Fault Refusal :=
  complete s (jumpTo rd (pcRelative s imm) s)

/-- JALR: target `(x[rs1] + imm) & ~1`, `x[rd] <- pc + 4` (R129). -/
def execJalr (rd rs1 : Reg) (imm : BitVec 12) (s : State) :
    Host.Outcome State Fault Refusal :=
  complete s (jumpTo rd (jalrTarget s rs1 imm) s)

/-- BEQ: taken when `x[rs1] == x[rs2]` (R130). -/
def execBeq (rs1 rs2 : Reg) (imm : BitVec 13) (s : State) :
    Host.Outcome State Fault Refusal :=
  complete s (branchIf (readReg s rs1 == readReg s rs2) imm s)

/-- BNE: taken when `x[rs1] != x[rs2]` (R131). -/
def execBne (rs1 rs2 : Reg) (imm : BitVec 13) (s : State) :
    Host.Outcome State Fault Refusal :=
  complete s (branchIf (readReg s rs1 != readReg s rs2) imm s)

/-- BLT: taken when `x[rs1] <s x[rs2]` (R132). -/
def execBlt (rs1 rs2 : Reg) (imm : BitVec 13) (s : State) :
    Host.Outcome State Fault Refusal :=
  complete s (branchIf (lessSigned (readReg s rs1) (readReg s rs2)) imm s)

/-- BGE: taken when `x[rs1] >=s x[rs2]` (R133). -/
def execBge (rs1 rs2 : Reg) (imm : BitVec 13) (s : State) :
    Host.Outcome State Fault Refusal :=
  complete s (branchIf (!lessSigned (readReg s rs1) (readReg s rs2)) imm s)

/-- BLTU: taken when `x[rs1] <u x[rs2]` (R134). -/
def execBltu (rs1 rs2 : Reg) (imm : BitVec 13) (s : State) :
    Host.Outcome State Fault Refusal :=
  complete s (branchIf (lessUnsigned (readReg s rs1) (readReg s rs2)) imm s)

/-- BGEU: taken when `x[rs1] >=u x[rs2]` (R135). -/
def execBgeu (rs1 rs2 : Reg) (imm : BitVec 13) (s : State) :
    Host.Outcome State Fault Refusal :=
  complete s (branchIf (!lessUnsigned (readReg s rs1) (readReg s rs2)) imm s)

end Sys2Proof.Machine
end

