-- ==== Sys2Proof/Machine/Inert.lean ====
section
/-! DEFINITION. The inert MISC-MEM and SYSTEM words (45_inert_fence_system.md R150 to R161):
successful no-ops that only advance the pc. No CSR exists and `rd` is not written; ECALL, EBREAK, MRET,
SRET and WFI raise nothing, return from nothing and wait for nothing. -/

namespace Sys2Proof.Machine

/-- The inert step (R150): no register read or written, no memory access, no CSR; `Default`. -/
def inert : HandlerResult := .ok {}

/-- FENCE: the inert step; no field of the word is read (R151). -/
def execFence (_fm _pred _succ : BitVec 4) (_rs1 _rd : Reg) (s : State) :
    Host.Outcome State Fault Refusal :=
  complete s inert

/-- FENCE.I: the inert step; no field of the word is read (R152). -/
def execFenceI (_rd _rs1 : Reg) (_imm : BitVec 12) (s : State) :
    Host.Outcome State Fault Refusal :=
  complete s inert

/-- ECALL: the inert step; no field of the word is read (R153). -/
def execEcall (s : State) :
    Host.Outcome State Fault Refusal :=
  complete s inert

/-- EBREAK: the inert step; no field of the word is read (R154). -/
def execEbreak (s : State) :
    Host.Outcome State Fault Refusal :=
  complete s inert

/-- CSRRW: the inert step; no field of the word is read (R155). -/
def execCsrrw (_rd _rs1 : Reg) (_csr : BitVec 12) (s : State) :
    Host.Outcome State Fault Refusal :=
  complete s inert

/-- CSRRS: the inert step; no field of the word is read (R156). -/
def execCsrrs (_rd _rs1 : Reg) (_csr : BitVec 12) (s : State) :
    Host.Outcome State Fault Refusal :=
  complete s inert

/-- CSRRC: the inert step; no field of the word is read (R157). -/
def execCsrrc (_rd _rs1 : Reg) (_csr : BitVec 12) (s : State) :
    Host.Outcome State Fault Refusal :=
  complete s inert

/-- CSRRWI: the inert step; no field of the word is read (R158). -/
def execCsrrwi (_rd : Reg) (_uimm : BitVec 5) (_csr : BitVec 12) (s : State) :
    Host.Outcome State Fault Refusal :=
  complete s inert

/-- CSRRSI: the inert step; no field of the word is read (R159). -/
def execCsrrsi (_rd : Reg) (_uimm : BitVec 5) (_csr : BitVec 12) (s : State) :
    Host.Outcome State Fault Refusal :=
  complete s inert

/-- CSRRCI: the inert step; no field of the word is read (R160). -/
def execCsrrci (_rd : Reg) (_uimm : BitVec 5) (_csr : BitVec 12) (s : State) :
    Host.Outcome State Fault Refusal :=
  complete s inert

/-- MISC-MEM, any other word: the inert step; no field of the word is read (R161). -/
def execMiscMemOther (_w : Word32) (s : State) :
    Host.Outcome State Fault Refusal :=
  complete s inert

/-- SYSTEM, any other word: the inert step; no field of the word is read (R161). -/
def execSystemOther (_w : Word32) (s : State) :
    Host.Outcome State Fault Refusal :=
  complete s inert

end Sys2Proof.Machine
end

