-- ==== Sys2Proof/Machine/IntegerImmediate.lean ====
section
/-! DEFINITION. OP-IMM, OP-IMM-32, LUI and AUIPC (41_integer_immediate.md R94 to
R109): results modulo 2^64, no overflow detection, no exception of their own. The exact results are the
rules', which the spec marks general knowledge (log entry 10). -/

namespace Sys2Proof.Machine

/-- An operation that writes exactly `x[rd]` and signals `Default` (R94, R110). -/
def writesRd (rd : Reg) (v : Word) : HandlerResult := .ok { reg := some (rd, v) }

/-- ADDI: `x[rd] <- x[rs1] + imm` (R95). -/
def execAddi (rd rs1 : Reg) (imm : BitVec 12) (s : State) :
    Host.Outcome State Fault Refusal :=
  complete s (writesRd rd (readReg s rs1 + sext imm))

/-- SLTI: `x[rd] <- signed(x[rs1]) < signed(imm)` (R96). -/
def execSlti (rd rs1 : Reg) (imm : BitVec 12) (s : State) :
    Host.Outcome State Fault Refusal :=
  complete s (writesRd rd (boolWord (lessSigned (readReg s rs1) (sext imm))))

/-- SLTIU: `x[rd] <- unsigned(x[rs1]) < unsigned(imm)`, the immediate sign-extended first (R97). -/
def execSltiu (rd rs1 : Reg) (imm : BitVec 12) (s : State) :
    Host.Outcome State Fault Refusal :=
  complete s (writesRd rd (boolWord (lessUnsigned (readReg s rs1) (sext imm))))

/-- XORI: `x[rd] <- x[rs1] ^ imm` (R98). -/
def execXori (rd rs1 : Reg) (imm : BitVec 12) (s : State) :
    Host.Outcome State Fault Refusal :=
  complete s (writesRd rd (readReg s rs1 ^^^ sext imm))

/-- ORI: `x[rd] <- x[rs1] | imm` (R99). -/
def execOri (rd rs1 : Reg) (imm : BitVec 12) (s : State) :
    Host.Outcome State Fault Refusal :=
  complete s (writesRd rd (readReg s rs1 ||| sext imm))

/-- ANDI: `x[rd] <- x[rs1] & imm` (R100). -/
def execAndi (rd rs1 : Reg) (imm : BitVec 12) (s : State) :
    Host.Outcome State Fault Refusal :=
  complete s (writesRd rd (readReg s rs1 &&& sext imm))

/-- SLLI: `x[rd] <- x[rs1] << shamt` (R101). -/
def execSlli (rd rs1 : Reg) (shamt : BitVec 6) (s : State) :
    Host.Outcome State Fault Refusal :=
  complete s (writesRd rd (readReg s rs1 <<< shamt.toNat))

/-- SRLI: `x[rd] <- x[rs1] >>u shamt` (R102). -/
def execSrli (rd rs1 : Reg) (shamt : BitVec 6) (s : State) :
    Host.Outcome State Fault Refusal :=
  complete s (writesRd rd (readReg s rs1 >>> shamt.toNat))

/-- SRAI: `x[rd] <- x[rs1] >>s shamt` (R103). -/
def execSrai (rd rs1 : Reg) (shamt : BitVec 6) (s : State) :
    Host.Outcome State Fault Refusal :=
  complete s (writesRd rd ((readReg s rs1).sshiftRight shamt.toNat))

/-- ADDIW: `x[rd] <- sext_32((x[rs1] + imm)[31:0])` (R104). -/
def execAddiw (rd rs1 : Reg) (imm : BitVec 12) (s : State) :
    Host.Outcome State Fault Refusal :=
  complete s (writesRd rd (sext (low32 (readReg s rs1 + sext imm))))

/-- SLLIW: `x[rd] <- sext_32((x[rs1][31:0] << shamt5)[31:0])` (R105). -/
def execSlliw (rd rs1 : Reg) (shamt : BitVec 5) (s : State) :
    Host.Outcome State Fault Refusal :=
  complete s (writesRd rd (sext (readWord s rs1 <<< shamt.toNat)))

/-- SRLIW: `x[rd] <- sext_32(x[rs1][31:0] >>u shamt5)` (R106). -/
def execSrliw (rd rs1 : Reg) (shamt : BitVec 5) (s : State) :
    Host.Outcome State Fault Refusal :=
  complete s (writesRd rd (sext (readWord s rs1 >>> shamt.toNat)))

/-- SRAIW: `x[rd] <- sext_32(x[rs1][31:0] >>s shamt5)` (R107). -/
def execSraiw (rd rs1 : Reg) (shamt : BitVec 5) (s : State) :
    Host.Outcome State Fault Refusal :=
  complete s (writesRd rd (sext ((readWord s rs1).sshiftRight shamt.toNat)))

/-- LUI: `x[rd] <- sext_32({w[31:12], 12'b0})` (R108). -/
def execLui (rd : Reg) (imm : BitVec 32) (s : State) :
    Host.Outcome State Fault Refusal :=
  complete s (writesRd rd (sext imm))

/-- AUIPC: `x[rd] <- pc + sext_32({w[31:12], 12'b0})` (R109). -/
def execAuipc (rd : Reg) (imm : BitVec 32) (s : State) :
    Host.Outcome State Fault Refusal :=
  complete s (writesRd rd (s.pc + sext imm))

end Sys2Proof.Machine
end

