-- ==== Sys2Proof/Machine/IntegerRegister.lean ====
section
/-! DEFINITION. OP and OP-32 (42_integer_register.md R110 to R125): results modulo
2^64, no overflow trap, no exception of their own. The exact results are the rules', which the spec
marks general knowledge (log entry 10). -/

namespace Sys2Proof.Machine

/-- ADD: `x[rd] <- x[rs1] + x[rs2]` (R111). -/
def execAdd (rd rs1 rs2 : Reg) (s : State) :
    Host.Outcome State Fault Refusal :=
  complete s (writesRd rd (readReg s rs1 + readReg s rs2))

/-- SUB: `x[rd] <- x[rs1] - x[rs2]` (R112). -/
def execSub (rd rs1 rs2 : Reg) (s : State) :
    Host.Outcome State Fault Refusal :=
  complete s (writesRd rd (readReg s rs1 - readReg s rs2))

/-- SLL: `x[rd] <- x[rs1] << x[rs2][5:0]` (R113). -/
def execSll (rd rs1 rs2 : Reg) (s : State) :
    Host.Outcome State Fault Refusal :=
  complete s (writesRd rd (readReg s rs1 <<< shiftAmount6 s rs2))

/-- SLT: `x[rd] <- signed(x[rs1]) < signed(x[rs2])` (R114). -/
def execSlt (rd rs1 rs2 : Reg) (s : State) :
    Host.Outcome State Fault Refusal :=
  complete s (writesRd rd (boolWord (lessSigned (readReg s rs1) (readReg s rs2))))

/-- SLTU: `x[rd] <- unsigned(x[rs1]) < unsigned(x[rs2])` (R115). -/
def execSltu (rd rs1 rs2 : Reg) (s : State) :
    Host.Outcome State Fault Refusal :=
  complete s (writesRd rd (boolWord (lessUnsigned (readReg s rs1) (readReg s rs2))))

/-- XOR: `x[rd] <- x[rs1] ^ x[rs2]` (R116). -/
def execXor (rd rs1 rs2 : Reg) (s : State) :
    Host.Outcome State Fault Refusal :=
  complete s (writesRd rd (readReg s rs1 ^^^ readReg s rs2))

/-- SRL: `x[rd] <- x[rs1] >>u x[rs2][5:0]` (R117). -/
def execSrl (rd rs1 rs2 : Reg) (s : State) :
    Host.Outcome State Fault Refusal :=
  complete s (writesRd rd (readReg s rs1 >>> shiftAmount6 s rs2))

/-- SRA: `x[rd] <- x[rs1] >>s x[rs2][5:0]` (R118). -/
def execSra (rd rs1 rs2 : Reg) (s : State) :
    Host.Outcome State Fault Refusal :=
  complete s (writesRd rd ((readReg s rs1).sshiftRight (shiftAmount6 s rs2)))

/-- OR: `x[rd] <- x[rs1] | x[rs2]` (R119). -/
def execOr (rd rs1 rs2 : Reg) (s : State) :
    Host.Outcome State Fault Refusal :=
  complete s (writesRd rd (readReg s rs1 ||| readReg s rs2))

/-- AND: `x[rd] <- x[rs1] & x[rs2]` (R120). -/
def execAnd (rd rs1 rs2 : Reg) (s : State) :
    Host.Outcome State Fault Refusal :=
  complete s (writesRd rd (readReg s rs1 &&& readReg s rs2))

/-- ADDW: `x[rd] <- sext_32((x[rs1] + x[rs2])[31:0])` (R121). -/
def execAddw (rd rs1 rs2 : Reg) (s : State) :
    Host.Outcome State Fault Refusal :=
  complete s (writesRd rd (sext (low32 (readReg s rs1 + readReg s rs2))))

/-- SUBW: `x[rd] <- sext_32((x[rs1] - x[rs2])[31:0])` (R122). -/
def execSubw (rd rs1 rs2 : Reg) (s : State) :
    Host.Outcome State Fault Refusal :=
  complete s (writesRd rd (sext (low32 (readReg s rs1 - readReg s rs2))))

/-- SLLW: `x[rd] <- sext_32((x[rs1][31:0] << x[rs2][4:0])[31:0])` (R123). -/
def execSllw (rd rs1 rs2 : Reg) (s : State) :
    Host.Outcome State Fault Refusal :=
  complete s (writesRd rd (sext (readWord s rs1 <<< shiftAmount5 s rs2)))

/-- SRLW: `x[rd] <- sext_32(x[rs1][31:0] >>u x[rs2][4:0])` (R124). -/
def execSrlw (rd rs1 rs2 : Reg) (s : State) :
    Host.Outcome State Fault Refusal :=
  complete s (writesRd rd (sext (readWord s rs1 >>> shiftAmount5 s rs2)))

/-- SRAW: `x[rd] <- sext_32(x[rs1][31:0] >>s x[rs2][4:0])` (R125). -/
def execSraw (rd rs1 rs2 : Reg) (s : State) :
    Host.Outcome State Fault Refusal :=
  complete s (writesRd rd (sext ((readWord s rs1).sshiftRight (shiftAmount5 s rs2))))

end Sys2Proof.Machine
end

