-- ==== Sys2Proof/Machine/LoadStore.lean ====
section
/-! DEFINITION. Loads and stores (44_load_store.md R136 to R149): natural alignment,
then range, then one access of the full width, little-endian (log entries 12 to 14). The widths and
extensions are the rules', which the spec marks general knowledge (log entry 10). -/

namespace Sys2Proof.Machine

/-- A load of `n` bytes (R136, R137): the checked read, then `x[rd]`. The read is made and can fail even
when `rd` is 0 (R149, log entry 19). -/
def load (n : Nat) (extend : BitVec (8 * n) → Word) (rd rs1 : Reg) (imm : BitVec 12) (s : State) :
    HandlerResult :=
  match memRead .load (effectiveAddress s rs1 imm) n s.mem with
  | .error r => .error r
  | .ok v => .ok { reg := some (rd, extend v) }

/-- A store of the low `n` bytes of `x[rs2]` (R136): the checks of R40, then the write. -/
def store (n : Nat) (rs2 rs1 : Reg) (imm : BitVec 12) (s : State) : HandlerResult :=
  match checkAccess .store (effectiveAddress s rs1 imm) n s.mem with
  | some r => .error r
  | none => .ok { store := some ⟨effectiveAddress s rs1 imm, n, readReg s rs2⟩ }

/-- LB: `x[rd] <- sext_8(MemRead(x[rs1] + imm, 1))` (R138). -/
def execLb (rd rs1 : Reg) (imm : BitVec 12) (s : State) :
    Host.Outcome State Fault Refusal :=
  complete s (load 1 sext rd rs1 imm s)

/-- LH: `x[rd] <- sext_16(MemRead(x[rs1] + imm, 2))` (R139). -/
def execLh (rd rs1 : Reg) (imm : BitVec 12) (s : State) :
    Host.Outcome State Fault Refusal :=
  complete s (load 2 sext rd rs1 imm s)

/-- LW: `x[rd] <- sext_32(MemRead(x[rs1] + imm, 4))` (R140). -/
def execLw (rd rs1 : Reg) (imm : BitVec 12) (s : State) :
    Host.Outcome State Fault Refusal :=
  complete s (load 4 sext rd rs1 imm s)

/-- LD: `x[rd] <- MemRead(x[rs1] + imm, 8)` (R141). -/
def execLd (rd rs1 : Reg) (imm : BitVec 12) (s : State) :
    Host.Outcome State Fault Refusal :=
  complete s (load 8 zext rd rs1 imm s)

/-- LBU: `x[rd] <- zext_8(MemRead(x[rs1] + imm, 1))` (R142). -/
def execLbu (rd rs1 : Reg) (imm : BitVec 12) (s : State) :
    Host.Outcome State Fault Refusal :=
  complete s (load 1 zext rd rs1 imm s)

/-- LHU: `x[rd] <- zext_16(MemRead(x[rs1] + imm, 2))` (R143). -/
def execLhu (rd rs1 : Reg) (imm : BitVec 12) (s : State) :
    Host.Outcome State Fault Refusal :=
  complete s (load 2 zext rd rs1 imm s)

/-- LWU: `x[rd] <- zext_32(MemRead(x[rs1] + imm, 4))` (R144). -/
def execLwu (rd rs1 : Reg) (imm : BitVec 12) (s : State) :
    Host.Outcome State Fault Refusal :=
  complete s (load 4 zext rd rs1 imm s)

/-- SB: `MemWrite(x[rs1] + imm, 1, x[rs2])` (R145). -/
def execSb (rs2 rs1 : Reg) (imm : BitVec 12) (s : State) :
    Host.Outcome State Fault Refusal :=
  complete s (store 1 rs2 rs1 imm s)

/-- SH: `MemWrite(x[rs1] + imm, 2, x[rs2])` (R146). -/
def execSh (rs2 rs1 : Reg) (imm : BitVec 12) (s : State) :
    Host.Outcome State Fault Refusal :=
  complete s (store 2 rs2 rs1 imm s)

/-- SW: `MemWrite(x[rs1] + imm, 4, x[rs2])` (R147). -/
def execSw (rs2 rs1 : Reg) (imm : BitVec 12) (s : State) :
    Host.Outcome State Fault Refusal :=
  complete s (store 4 rs2 rs1 imm s)

/-- SD: `MemWrite(x[rs1] + imm, 8, x[rs2])` (R148). -/
def execSd (rs2 rs1 : Reg) (imm : BitVec 12) (s : State) :
    Host.Outcome State Fault Refusal :=
  complete s (store 8 rs2 rs1 imm s)

end Sys2Proof.Machine
end

