-- ==== Sys2Proof/Machine/Dispatch.lean ====
section
/-! DEFINITION. The dispatch of an instruction to its meaning (40_dispatch_and_step.md R80 to R83): one
arm per row of the opcode table, none left over. -/

namespace Sys2Proof.Machine

/-- The operation of `i` on the step-start state `s`: its effects committed, or its exception taken. -/
def exec (i : Instr) (s : State) : Host.Outcome State Fault Refusal :=
  match i with
  | .addi rd rs1 imm => Sys2Proof.Machine.execAddi rd rs1 imm s
  | .slti rd rs1 imm => Sys2Proof.Machine.execSlti rd rs1 imm s
  | .sltiu rd rs1 imm => Sys2Proof.Machine.execSltiu rd rs1 imm s
  | .xori rd rs1 imm => Sys2Proof.Machine.execXori rd rs1 imm s
  | .ori rd rs1 imm => Sys2Proof.Machine.execOri rd rs1 imm s
  | .andi rd rs1 imm => Sys2Proof.Machine.execAndi rd rs1 imm s
  | .slli rd rs1 shamt => Sys2Proof.Machine.execSlli rd rs1 shamt s
  | .srli rd rs1 shamt => Sys2Proof.Machine.execSrli rd rs1 shamt s
  | .srai rd rs1 shamt => Sys2Proof.Machine.execSrai rd rs1 shamt s
  | .addiw rd rs1 imm => Sys2Proof.Machine.execAddiw rd rs1 imm s
  | .slliw rd rs1 shamt => Sys2Proof.Machine.execSlliw rd rs1 shamt s
  | .srliw rd rs1 shamt => Sys2Proof.Machine.execSrliw rd rs1 shamt s
  | .sraiw rd rs1 shamt => Sys2Proof.Machine.execSraiw rd rs1 shamt s
  | .lui rd imm => Sys2Proof.Machine.execLui rd imm s
  | .auipc rd imm => Sys2Proof.Machine.execAuipc rd imm s
  | .add rd rs1 rs2 => Sys2Proof.Machine.execAdd rd rs1 rs2 s
  | .sub rd rs1 rs2 => Sys2Proof.Machine.execSub rd rs1 rs2 s
  | .sll rd rs1 rs2 => Sys2Proof.Machine.execSll rd rs1 rs2 s
  | .slt rd rs1 rs2 => Sys2Proof.Machine.execSlt rd rs1 rs2 s
  | .sltu rd rs1 rs2 => Sys2Proof.Machine.execSltu rd rs1 rs2 s
  | .xor rd rs1 rs2 => Sys2Proof.Machine.execXor rd rs1 rs2 s
  | .srl rd rs1 rs2 => Sys2Proof.Machine.execSrl rd rs1 rs2 s
  | .sra rd rs1 rs2 => Sys2Proof.Machine.execSra rd rs1 rs2 s
  | .or rd rs1 rs2 => Sys2Proof.Machine.execOr rd rs1 rs2 s
  | .and rd rs1 rs2 => Sys2Proof.Machine.execAnd rd rs1 rs2 s
  | .addw rd rs1 rs2 => Sys2Proof.Machine.execAddw rd rs1 rs2 s
  | .subw rd rs1 rs2 => Sys2Proof.Machine.execSubw rd rs1 rs2 s
  | .sllw rd rs1 rs2 => Sys2Proof.Machine.execSllw rd rs1 rs2 s
  | .srlw rd rs1 rs2 => Sys2Proof.Machine.execSrlw rd rs1 rs2 s
  | .sraw rd rs1 rs2 => Sys2Proof.Machine.execSraw rd rs1 rs2 s
  | .jal rd imm => Sys2Proof.Machine.execJal rd imm s
  | .jalr rd rs1 imm => Sys2Proof.Machine.execJalr rd rs1 imm s
  | .beq rs1 rs2 imm => Sys2Proof.Machine.execBeq rs1 rs2 imm s
  | .bne rs1 rs2 imm => Sys2Proof.Machine.execBne rs1 rs2 imm s
  | .blt rs1 rs2 imm => Sys2Proof.Machine.execBlt rs1 rs2 imm s
  | .bge rs1 rs2 imm => Sys2Proof.Machine.execBge rs1 rs2 imm s
  | .bltu rs1 rs2 imm => Sys2Proof.Machine.execBltu rs1 rs2 imm s
  | .bgeu rs1 rs2 imm => Sys2Proof.Machine.execBgeu rs1 rs2 imm s
  | .lb rd rs1 imm => Sys2Proof.Machine.execLb rd rs1 imm s
  | .lh rd rs1 imm => Sys2Proof.Machine.execLh rd rs1 imm s
  | .lw rd rs1 imm => Sys2Proof.Machine.execLw rd rs1 imm s
  | .ld rd rs1 imm => Sys2Proof.Machine.execLd rd rs1 imm s
  | .lbu rd rs1 imm => Sys2Proof.Machine.execLbu rd rs1 imm s
  | .lhu rd rs1 imm => Sys2Proof.Machine.execLhu rd rs1 imm s
  | .lwu rd rs1 imm => Sys2Proof.Machine.execLwu rd rs1 imm s
  | .sb rs2 rs1 imm => Sys2Proof.Machine.execSb rs2 rs1 imm s
  | .sh rs2 rs1 imm => Sys2Proof.Machine.execSh rs2 rs1 imm s
  | .sw rs2 rs1 imm => Sys2Proof.Machine.execSw rs2 rs1 imm s
  | .sd rs2 rs1 imm => Sys2Proof.Machine.execSd rs2 rs1 imm s
  | .fence fm pred succ rs1 rd => Sys2Proof.Machine.execFence fm pred succ rs1 rd s
  | .fenceI rd rs1 imm => Sys2Proof.Machine.execFenceI rd rs1 imm s
  | .ecall => Sys2Proof.Machine.execEcall s
  | .ebreak => Sys2Proof.Machine.execEbreak s
  | .csrrw rd rs1 csr => Sys2Proof.Machine.execCsrrw rd rs1 csr s
  | .csrrs rd rs1 csr => Sys2Proof.Machine.execCsrrs rd rs1 csr s
  | .csrrc rd rs1 csr => Sys2Proof.Machine.execCsrrc rd rs1 csr s
  | .csrrwi rd uimm csr => Sys2Proof.Machine.execCsrrwi rd uimm csr s
  | .csrrsi rd uimm csr => Sys2Proof.Machine.execCsrrsi rd uimm csr s
  | .csrrci rd uimm csr => Sys2Proof.Machine.execCsrrci rd uimm csr s
  | .miscMemOther w => Sys2Proof.Machine.execMiscMemOther w s
  | .systemOther w => Sys2Proof.Machine.execSystemOther w s

end Sys2Proof.Machine
end

