-- ==== Sys2Proof/Machine/Step.lean ====
section
/-! DEFINITION. The engine step: fetch, decode, dispatch, advance (40_dispatch_and_step.md R88). -/

namespace Sys2Proof.Machine

/-- Step 4 of R88, the dispatch multiplexer on a tagged record, `w` the raw word it came from: a record
whose handler finds no operation for it, a foreign one among them, takes IllegalInstruction with no side
effect (R84, R85); any other runs its operation. -/
def dispatch (inst : Instruction) (w : Word32) (s : State) : Host.Outcome State Fault Refusal :=
  match select inst with
  | .error _ => .next (takeException (illegalInstruction w) s)
  | .ok i => exec i s

/-- Steps 2 to 5 of R88 on a fetched word: the classifier's `Illegal` takes IllegalInstruction, any
record is dispatched. The defensive step 3 changes nothing (R19). -/
def dispatchWord (w : Word32) (s : State) : Host.Outcome State Fault Refusal :=
  match classify w with
  | .illegal => .next (takeException (illegalInstruction w) s)
  | .instr inst => dispatch inst w s

/-- One call of `step()` (R88). A Trapped hart makes no memory access and keeps its state, recorded
exception included (R92); what the call returned is `stepResult` of the state after it. -/
def step (s : State) : Host.Outcome State Fault Refusal :=
  match s.status with
  | .trapped _ => .next s
  | .runnable =>
    match fetchWord s with
    | .error r => .next (takeException r s)
    | .ok w => dispatchWord w s

/-- `s` with the opcode-table word (bit 0 the least significant bit of the word) in the 4 bytes at its
pc, little-endian (R50): the external load of a program (R184, log entry 6). A Runnable `s` whose pc is
aligned and in range then runs exactly that word. -/
def State.withFetchWord (s : State) (nbits w : Nat) : State :=
  setMem (s.mem.writeLE s.pc.toNat ((tableWord nbits w).setWidth 64) 4) s

end Sys2Proof.Machine
end

