-- ==== Sys2Proof/Safety.lean ====
section
/-! DEFINITION. What a claim about a run may call safe, and how a caller ends a run
(70_reset_and_hazards.md R191, R192). -/

namespace Sys2Proof.Machine

/-- The state is not at a fault: a Trapped hart is never a successful end (R191). -/
abbrev Safe (s : State) : Prop := s.status = .runnable

/-- The state after `n` calls of `step()`, each on the state the one before it gave (R46). -/
def stepsFrom : Nat → State → Option State
  | 0, s => some s
  | n + 1, s =>
    match step s with
    | .next t => stepsFrom n t
    | .refused _ => none

/-- Every one of the first `n` calls of `step()` returned `Ok`. -/
def SafeRun (n : Nat) (s : State) : Prop := ∀ k ≤ n, ∃ t, stepsFrom k s = some t ∧ Safe t

/-- The caller's parameter `RUN_END` (R191): a step budget, a predicate on the state, or the first
`Err`. -/
inductive RunEnd where
  | budget (steps : Nat)
  | reached (here : State → Bool)
  | firstErr

/-- The run is over in state `s`, after `k` steps. -/
def RunEnd.over (e : RunEnd) (k : Nat) (s : State) : Bool :=
  match e with
  | .budget steps => steps ≤ k
  | .reached here => here s
  | .firstErr => (recordedException s).isSome

/-- A run from `s` ends successfully in `t` after `k` steps: `RUN_END` chose this point and no earlier
one, and the hart is not Trapped (R191). -/
def EndsAt (e : RunEnd) (s : State) (k : Nat) (t : State) : Prop :=
  stepsFrom k s = some t ∧ e.over k t = true ∧ Safe t ∧
    ∀ j < k, ∀ u, stepsFrom j s = some u → e.over j u = false

/-! ## The invariant of the machine -/

/-- What R163, R165 to R167 and R169 say of the record a hart with this pc and memory holds: the pc the
hart still has, an access of the kind's list, and an address that shows the failure. -/
structure RecordLegal (e : Exception) (s : State) : Prop where
  /-- The record's pc is the pc the hart holds afterwards (R163). -/
  pc_kept : e.pc = s.pc
  /-- The kind comes with one of its accesses (R169). -/
  access_of_kind : e.access ∈ e.kind.accesses
  /-- A Decode record holds a 32-bit word, zero-extended (R163). -/
  decode_word : e.access = .decode → e.addr.toNat < 2 ^ 32
  /-- A Fetch record's address is the pc (R165, R166). -/
  fetch_addr : e.access = .fetch → e.addr = e.pc
  /-- An alignment fault's address is no multiple of the alignment: 4 for a fetch or a target, at most 8
  for a load or store (R166). -/
  misaligned : e.kind = .alignmentFault →
    e.addr.toNat % (if e.access = .load ∨ e.access = .store then 8 else 4) ≠ 0
  /-- A fetch fault's 4 bytes are not all in range (R165). -/
  fetch_outside : e.kind = .fetchFault → s.mem.inRange e.addr.toNat 4 = false
  /-- A memory access fault's access, of at most 8 bytes, is not all in range (R167). -/
  access_outside : e.kind = .memoryAccessFault → s.mem.inRange e.addr.toNat 8 = false

/-- What holds of every state a boot-conforming hart reaches: memory in canonical form within its range,
the pc a multiple of 4 (R22), and a recorded exception that R163 to R169 allow. -/
structure Inv (s : State) : Prop where
  memory : s.mem.wf
  aligned : s.pc.toNat % 4 = 0
  record : ∀ e, s.status = .trapped e → RecordLegal e s

end Sys2Proof.Machine
end

