-- ==== Sys2Proof/Certificates/Slice0/Obligations.lean ====
section
/-! DEFINITION. The statements for the provers. Results are stated in integer arithmetic, words and fields
by the places the encoding rules give them, and memory through the read of one byte, so that a statement
does not repeat the meaning it is about. -/

namespace Sys2Proof.Claims

open Sys2Proof.Machine

/-! ## What a state keeps -/

/-- The range of memory is as before. -/
def RangeKept (s t : State) : Prop := t.mem.base = s.mem.base ∧ t.mem.size = s.mem.size

/-- Every byte of memory reads as before, and the range is as before. -/
def MemoryKept (s t : State) : Prop := RangeKept s t ∧ ∀ a, t.mem.readByte a = s.mem.readByte a

/-- Every register reads as before. -/
def RegistersKept (s t : State) : Prop := ∀ r, readReg t r = readReg s r

/-- `x[rd]` reads `v`, or 0 when `rd` is 0 (R17, R18); every other register reads as before. -/
def RegisterGets (s t : State) (rd : Reg) (v : Word) : Prop :=
  readReg t rd = (if rd = 0 then 0 else v) ∧ ∀ r, r ≠ rd → readReg t r = readReg s r

/-! ## How an instruction ends -/

/-- `i` completes: `x[rd]` gets `v`, the pc becomes `pc`, and registers, status and memory are otherwise
as before. -/
def WritesRd (i : Instr) (s : State) (rd : Reg) (v pc : Word) : Prop :=
  ∃ t, exec i s = .next t ∧ RegisterGets s t rd v ∧ t.pc = pc ∧ t.status = s.status ∧ MemoryKept s t

/-- `i` completes: the pc becomes `pc`, and all registers, the status and memory are as before. -/
def MovesPc (i : Instr) (s : State) (pc : Word) : Prop :=
  ∃ t, exec i s = .next t ∧ RegistersKept s t ∧ t.pc = pc ∧ t.status = s.status ∧ MemoryKept s t

/-- `i` completes: the `n` bytes at `a` become the low `n` bytes of `v`, the least significant at `a`;
every byte outside them, every register and the status are as before, and the pc advances by 4. -/
def Stores (i : Instr) (s : State) (a n : Nat) (v : Word) : Prop :=
  ∃ t, exec i s = .next t ∧ RegistersKept s t ∧ t.pc = s.pc + 4 ∧ t.status = s.status ∧
    RangeKept s t ∧
    (∀ k, k < n → (t.mem.readByte (a + k)).toNat = v.toNat / 2 ^ (8 * k) % 256) ∧
    ∀ b, b < a ∨ a + n ≤ b → t.mem.readByte b = s.mem.readByte b

/-- The state `s` with this exception recorded, its pc the step-start pc, and nothing else changed
(R90, R163, R171). -/
def trapOf (s : State) (kind : ExceptionKind) (access : Access) (addr : Word) : State :=
  { s with status := .trapped { kind := kind, pc := s.pc, access := access, addr := addr } }

/-- `i` takes this exception and changes nothing else. -/
def Traps (i : Instr) (s : State) (kind : ExceptionKind) (access : Access) (addr : Word) : Prop :=
  exec i s = .next (trapOf s kind access addr)

/-- A step that has fetched `w` takes IllegalInstruction, recording the word, and changes nothing else
(R164). -/
def IllegalHere (w : Word32) (s : State) : Prop :=
  dispatchWord w s = .next (trapOf s .illegalInstruction .decode (BitVec.ofNat 64 w.toNat))

/-! ## Fields of a word, by place (R53 to R60) -/

/-- The register whose number is the 5 bits from bit `lo` up. -/
def regAt (w : Word32) (lo : Nat) : Reg := ⟨w.toNat / 2 ^ lo % 32, Nat.mod_lt _ (by decide)⟩

/-- Every word with the fixed bits `pattern` under `mask` decodes to the instruction `i` makes of it. -/
def DecodesWhen (pattern mask : Word32) (i : Word32 → Instr) : Prop :=
  ∀ w, w &&& mask = pattern → decodeWord w = .ok (i w)

/-- The R operands of a word. -/
def opR (mk : Reg → Reg → Reg → Instr) (w : Word32) : Instr := mk (regAt w 7) (regAt w 15) (regAt w 20)

/-- The I operands of a word. -/
def opI (mk : Reg → Reg → BitVec 12 → Instr) (w : Word32) : Instr :=
  mk (regAt w 7) (regAt w 15) (w.extractLsb' 20 12)

/-- The operands of a 64-bit shift by immediate. -/
def opShift6 (mk : Reg → Reg → BitVec 6 → Instr) (w : Word32) : Instr :=
  mk (regAt w 7) (regAt w 15) (w.extractLsb' 20 6)

/-- The operands of a word shift by immediate. -/
def opShift5 (mk : Reg → Reg → BitVec 5 → Instr) (w : Word32) : Instr :=
  mk (regAt w 7) (regAt w 15) (w.extractLsb' 20 5)

/-- The S operands of a word: the immediate's pieces are `w[31:25]` and `w[11:7]`. -/
def opS (mk : Reg → Reg → BitVec 12 → Instr) (w : Word32) : Instr :=
  mk (regAt w 20) (regAt w 15) (w.extractLsb' 25 7 ++ w.extractLsb' 7 5)

/-- The B operands of a word: the immediate is `w[31]`, `w[7]`, `w[30:25]`, `w[11:8]`, 0. -/
def opB (mk : Reg → Reg → BitVec 13 → Instr) (w : Word32) : Instr :=
  mk (regAt w 15) (regAt w 20)
    (w.extractLsb' 31 1 ++ w.extractLsb' 7 1 ++ w.extractLsb' 25 6 ++ w.extractLsb' 8 4 ++ 0#1)

/-- The U operands of a word: the immediate is `w[31:12]` above 12 zeros. -/
def opU (mk : Reg → BitVec 32 → Instr) (w : Word32) : Instr :=
  mk (regAt w 7) (w.extractLsb' 12 20 ++ 0#12)

/-- The J operands of a word: the immediate is `w[31]`, `w[19:12]`, `w[20]`, `w[30:21]`, 0. -/
def opJ (mk : Reg → BitVec 21 → Instr) (w : Word32) : Instr :=
  mk (regAt w 7)
    (w.extractLsb' 31 1 ++ w.extractLsb' 12 8 ++ w.extractLsb' 20 1 ++ w.extractLsb' 21 10 ++ 0#1)

/-! ## Values in integer arithmetic -/

/-- An integer as a 64-bit value, modulo 2^64. -/
def ofInt (z : Int) : Word := BitVec.ofInt 64 z

/-- An integer's low 32 bits, sign-extended to 64 bits (`sext_32(z[31:0])`). -/
def ofInt32 (z : Int) : Word := BitVec.ofInt 64 (z.bmod (2 ^ 32))

/-- `if p then 1 else 0`. -/
def flag (p : Prop) [Decidable p] : Word := if p then 1 else 0

/-- The shape of an OP-IMM or OP-IMM-32 instruction with a 12-bit immediate: its row of the table, and its
result for all operands. -/
def ImmediateRule (mk : Reg → Reg → BitVec 12 → Instr) (pattern : Word32)
    (value : Word → BitVec 12 → Word) : Prop :=
  DecodesWhen pattern 0x0000707F (opI mk) ∧
  ∀ rd rs1 imm s, WritesRd (mk rd rs1 imm) s rd (value (readReg s rs1) imm) (s.pc + 4)

/-- The shape of a 64-bit shift by immediate. -/
def Shift6Rule (mk : Reg → Reg → BitVec 6 → Instr) (pattern : Word32)
    (value : Word → Nat → Word) : Prop :=
  DecodesWhen pattern 0xFC00707F (opShift6 mk) ∧
  ∀ rd rs1 shamt s, WritesRd (mk rd rs1 shamt) s rd (value (readReg s rs1) shamt.toNat) (s.pc + 4)

/-- The shape of a word shift by immediate. -/
def Shift5Rule (mk : Reg → Reg → BitVec 5 → Instr) (pattern : Word32)
    (value : Word → Nat → Word) : Prop :=
  DecodesWhen pattern 0xFE00707F (opShift5 mk) ∧
  ∀ rd rs1 shamt s, WritesRd (mk rd rs1 shamt) s rd (value (readReg s rs1) shamt.toNat) (s.pc + 4)

/-- The shape of an OP or OP-32 instruction. -/
def RegisterRule (mk : Reg → Reg → Reg → Instr) (pattern : Word32)
    (value : Word → Word → Word) : Prop :=
  DecodesWhen pattern 0xFE00707F (opR mk) ∧
  ∀ rd rs1 rs2 s,
    WritesRd (mk rd rs1 rs2) s rd (value (readReg s rs1) (readReg s rs2)) (s.pc + 4)

/-- The shape of a branch: not taken, the pc advances by 4 and the target is not checked; taken, the pc
becomes the target, or AlignmentFault(Branch, target) when that is no multiple of 4, which from an aligned
pc and an even offset is exactly `imm mod 4 = 2`. -/
def BranchRule (mk : Reg → Reg → BitVec 13 → Instr) (pattern : Word32)
    (taken : Word → Word → Prop) : Prop :=
  DecodesWhen pattern 0x0000707F (opB mk) ∧
  ∀ rs1 rs2 imm s, ∀ target, target = ofInt (s.pc.toNat + imm.toInt) →
    (¬ taken (readReg s rs1) (readReg s rs2) → MovesPc (mk rs1 rs2 imm) s (s.pc + 4)) ∧
    (taken (readReg s rs1) (readReg s rs2) →
      (target.toNat % 4 = 0 → MovesPc (mk rs1 rs2 imm) s target) ∧
      (target.toNat % 4 ≠ 0 → Traps (mk rs1 rs2 imm) s .alignmentFault .branch target)) ∧
    (s.pc.toNat % 4 = 0 → evenOffset imm = true → (target.toNat % 4 ≠ 0 ↔ imm.toInt % 4 = 2))

/-- `EA = x[rs1] + imm mod 2^64` (R136). -/
def eaOf (s : State) (rs1 : Reg) (imm : BitVec 12) : Word :=
  ofInt ((readReg s rs1).toInt + imm.toInt)

/-- The `n` bytes at `a` all lie in the range, with no wrap (R34). -/
def Within (s : State) (a n : Nat) : Prop := s.mem.base ≤ a ∧ a + n ≤ s.mem.base + s.mem.size

/-- The `n` bytes at `a`, the lowest address least significant (R36). -/
def bytesValue (s : State) (a n : Nat) : Nat :=
  ∑ k ∈ Finset.range n, (s.mem.readByte (a + k)).toNat * 2 ^ (8 * k)

/-- The shape of a load of `n` bytes: alignment first, then range, then the value into `x[rd]`. -/
def LoadRule (mk : Reg → Reg → BitVec 12 → Instr) (pattern : Word32) (n : Nat)
    (value : Nat → Word) : Prop :=
  DecodesWhen pattern 0x0000707F (opI mk) ∧
  ∀ rd rs1 imm s, ∀ ea, ea = eaOf s rs1 imm →
    (ea.toNat % n ≠ 0 → Traps (mk rd rs1 imm) s .alignmentFault .load ea) ∧
    (ea.toNat % n = 0 → ¬ Within s ea.toNat n →
      Traps (mk rd rs1 imm) s .memoryAccessFault .load ea) ∧
    (ea.toNat % n = 0 → Within s ea.toNat n →
      WritesRd (mk rd rs1 imm) s rd (value (bytesValue s ea.toNat n)) (s.pc + 4))

/-- The shape of a store of `n` bytes. Memory in its canonical form is an invariant
(`Obligations.StepKeepsTheInvariant`). -/
def StoreRule (mk : Reg → Reg → BitVec 12 → Instr) (pattern : Word32) (n : Nat) : Prop :=
  DecodesWhen pattern 0x0000707F (opS mk) ∧
  ∀ rs2 rs1 imm s, ∀ ea, ea = eaOf s rs1 imm →
    (ea.toNat % n ≠ 0 → Traps (mk rs2 rs1 imm) s .alignmentFault .store ea) ∧
    (ea.toNat % n = 0 → ¬ Within s ea.toNat n →
      Traps (mk rs2 rs1 imm) s .memoryAccessFault .store ea) ∧
    (s.mem.wf → ea.toNat % n = 0 → Within s ea.toNat n →
      Stores (mk rs2 rs1 imm) s ea.toNat n (readReg s rs2))

/-- The shape of an inert instruction: its words, and the step that only advances the pc. -/
def InertRule (i : Word32 → Instr) (pattern mask : Word32) : Prop :=
  DecodesWhen pattern mask i ∧ ∀ w s, MovesPc (i w) s (s.pc + 4)

/-! ## Classes of instructions -/

/-- The destination register of an instruction: `rd` for the R, I, U and J formats, none for stores,
branches and inert words (R16). -/
def dest : Instr → Option Reg
  | .addi rd _ _ => some rd
  | .slti rd _ _ => some rd
  | .sltiu rd _ _ => some rd
  | .xori rd _ _ => some rd
  | .ori rd _ _ => some rd
  | .andi rd _ _ => some rd
  | .slli rd _ _ => some rd
  | .srli rd _ _ => some rd
  | .srai rd _ _ => some rd
  | .addiw rd _ _ => some rd
  | .slliw rd _ _ => some rd
  | .srliw rd _ _ => some rd
  | .sraiw rd _ _ => some rd
  | .lui rd _ => some rd
  | .auipc rd _ => some rd
  | .add rd _ _ => some rd
  | .sub rd _ _ => some rd
  | .sll rd _ _ => some rd
  | .slt rd _ _ => some rd
  | .sltu rd _ _ => some rd
  | .xor rd _ _ => some rd
  | .srl rd _ _ => some rd
  | .sra rd _ _ => some rd
  | .or rd _ _ => some rd
  | .and rd _ _ => some rd
  | .addw rd _ _ => some rd
  | .subw rd _ _ => some rd
  | .sllw rd _ _ => some rd
  | .srlw rd _ _ => some rd
  | .sraw rd _ _ => some rd
  | .jal rd _ => some rd
  | .jalr rd _ _ => some rd
  | .beq _ _ _ => none
  | .bne _ _ _ => none
  | .blt _ _ _ => none
  | .bge _ _ _ => none
  | .bltu _ _ _ => none
  | .bgeu _ _ _ => none
  | .lb rd _ _ => some rd
  | .lh rd _ _ => some rd
  | .lw rd _ _ => some rd
  | .ld rd _ _ => some rd
  | .lbu rd _ _ => some rd
  | .lhu rd _ _ => some rd
  | .lwu rd _ _ => some rd
  | .sb _ _ _ => none
  | .sh _ _ _ => none
  | .sw _ _ _ => none
  | .sd _ _ _ => none
  | .fence _ _ _ _ _ => none
  | .fenceI _ _ _ => none
  | .ecall => none
  | .ebreak => none
  | .csrrw _ _ _ => none
  | .csrrs _ _ _ => none
  | .csrrc _ _ _ => none
  | .csrrwi _ _ _ => none
  | .csrrsi _ _ _ => none
  | .csrrci _ _ _ => none
  | .miscMemOther _ => none
  | .systemOther _ => none

/-- The registers an instruction reads: `rs1`, and for R, S and B also `rs2`; none for U, J and inert words
(R16, R150). -/
def sources : Instr → List Reg
  | .addi _ rs1 _ => [rs1]
  | .slti _ rs1 _ => [rs1]
  | .sltiu _ rs1 _ => [rs1]
  | .xori _ rs1 _ => [rs1]
  | .ori _ rs1 _ => [rs1]
  | .andi _ rs1 _ => [rs1]
  | .slli _ rs1 _ => [rs1]
  | .srli _ rs1 _ => [rs1]
  | .srai _ rs1 _ => [rs1]
  | .addiw _ rs1 _ => [rs1]
  | .slliw _ rs1 _ => [rs1]
  | .srliw _ rs1 _ => [rs1]
  | .sraiw _ rs1 _ => [rs1]
  | .lui _ _ => []
  | .auipc _ _ => []
  | .add _ rs1 rs2 => [rs1, rs2]
  | .sub _ rs1 rs2 => [rs1, rs2]
  | .sll _ rs1 rs2 => [rs1, rs2]
  | .slt _ rs1 rs2 => [rs1, rs2]
  | .sltu _ rs1 rs2 => [rs1, rs2]
  | .xor _ rs1 rs2 => [rs1, rs2]
  | .srl _ rs1 rs2 => [rs1, rs2]
  | .sra _ rs1 rs2 => [rs1, rs2]
  | .or _ rs1 rs2 => [rs1, rs2]
  | .and _ rs1 rs2 => [rs1, rs2]
  | .addw _ rs1 rs2 => [rs1, rs2]
  | .subw _ rs1 rs2 => [rs1, rs2]
  | .sllw _ rs1 rs2 => [rs1, rs2]
  | .srlw _ rs1 rs2 => [rs1, rs2]
  | .sraw _ rs1 rs2 => [rs1, rs2]
  | .jal _ _ => []
  | .jalr _ rs1 _ => [rs1]
  | .beq rs1 rs2 _ => [rs1, rs2]
  | .bne rs1 rs2 _ => [rs1, rs2]
  | .blt rs1 rs2 _ => [rs1, rs2]
  | .bge rs1 rs2 _ => [rs1, rs2]
  | .bltu rs1 rs2 _ => [rs1, rs2]
  | .bgeu rs1 rs2 _ => [rs1, rs2]
  | .lb _ rs1 _ => [rs1]
  | .lh _ rs1 _ => [rs1]
  | .lw _ rs1 _ => [rs1]
  | .ld _ rs1 _ => [rs1]
  | .lbu _ rs1 _ => [rs1]
  | .lhu _ rs1 _ => [rs1]
  | .lwu _ rs1 _ => [rs1]
  | .sb rs2 rs1 _ => [rs1, rs2]
  | .sh rs2 rs1 _ => [rs1, rs2]
  | .sw rs2 rs1 _ => [rs1, rs2]
  | .sd rs2 rs1 _ => [rs1, rs2]
  | .fence _ _ _ _ _ => []
  | .fenceI _ _ _ => []
  | .ecall => []
  | .ebreak => []
  | .csrrw _ _ _ => []
  | .csrrs _ _ _ => []
  | .csrrc _ _ _ => []
  | .csrrwi _ _ _ => []
  | .csrrsi _ _ _ => []
  | .csrrci _ _ _ => []
  | .miscMemOther _ => []
  | .systemOther _ => []

/-- SB, SH, SW and SD. -/
def isStore : Instr → Bool
  | .addi _ _ _ => false
  | .slti _ _ _ => false
  | .sltiu _ _ _ => false
  | .xori _ _ _ => false
  | .ori _ _ _ => false
  | .andi _ _ _ => false
  | .slli _ _ _ => false
  | .srli _ _ _ => false
  | .srai _ _ _ => false
  | .addiw _ _ _ => false
  | .slliw _ _ _ => false
  | .srliw _ _ _ => false
  | .sraiw _ _ _ => false
  | .lui _ _ => false
  | .auipc _ _ => false
  | .add _ _ _ => false
  | .sub _ _ _ => false
  | .sll _ _ _ => false
  | .slt _ _ _ => false
  | .sltu _ _ _ => false
  | .xor _ _ _ => false
  | .srl _ _ _ => false
  | .sra _ _ _ => false
  | .or _ _ _ => false
  | .and _ _ _ => false
  | .addw _ _ _ => false
  | .subw _ _ _ => false
  | .sllw _ _ _ => false
  | .srlw _ _ _ => false
  | .sraw _ _ _ => false
  | .jal _ _ => false
  | .jalr _ _ _ => false
  | .beq _ _ _ => false
  | .bne _ _ _ => false
  | .blt _ _ _ => false
  | .bge _ _ _ => false
  | .bltu _ _ _ => false
  | .bgeu _ _ _ => false
  | .lb _ _ _ => false
  | .lh _ _ _ => false
  | .lw _ _ _ => false
  | .ld _ _ _ => false
  | .lbu _ _ _ => false
  | .lhu _ _ _ => false
  | .lwu _ _ _ => false
  | .sb _ _ _ => true
  | .sh _ _ _ => true
  | .sw _ _ _ => true
  | .sd _ _ _ => true
  | .fence _ _ _ _ _ => false
  | .fenceI _ _ _ => false
  | .ecall => false
  | .ebreak => false
  | .csrrw _ _ _ => false
  | .csrrs _ _ _ => false
  | .csrrc _ _ _ => false
  | .csrrwi _ _ _ => false
  | .csrrsi _ _ _ => false
  | .csrrci _ _ _ => false
  | .miscMemOther _ => false
  | .systemOther _ => false

/-- LB, LH, LW, LD, LBU, LHU and LWU. -/
def isLoad : Instr → Bool
  | .addi _ _ _ => false
  | .slti _ _ _ => false
  | .sltiu _ _ _ => false
  | .xori _ _ _ => false
  | .ori _ _ _ => false
  | .andi _ _ _ => false
  | .slli _ _ _ => false
  | .srli _ _ _ => false
  | .srai _ _ _ => false
  | .addiw _ _ _ => false
  | .slliw _ _ _ => false
  | .srliw _ _ _ => false
  | .sraiw _ _ _ => false
  | .lui _ _ => false
  | .auipc _ _ => false
  | .add _ _ _ => false
  | .sub _ _ _ => false
  | .sll _ _ _ => false
  | .slt _ _ _ => false
  | .sltu _ _ _ => false
  | .xor _ _ _ => false
  | .srl _ _ _ => false
  | .sra _ _ _ => false
  | .or _ _ _ => false
  | .and _ _ _ => false
  | .addw _ _ _ => false
  | .subw _ _ _ => false
  | .sllw _ _ _ => false
  | .srlw _ _ _ => false
  | .sraw _ _ _ => false
  | .jal _ _ => false
  | .jalr _ _ _ => false
  | .beq _ _ _ => false
  | .bne _ _ _ => false
  | .blt _ _ _ => false
  | .bge _ _ _ => false
  | .bltu _ _ _ => false
  | .bgeu _ _ _ => false
  | .lb _ _ _ => true
  | .lh _ _ _ => true
  | .lw _ _ _ => true
  | .ld _ _ _ => true
  | .lbu _ _ _ => true
  | .lhu _ _ _ => true
  | .lwu _ _ _ => true
  | .sb _ _ _ => false
  | .sh _ _ _ => false
  | .sw _ _ _ => false
  | .sd _ _ _ => false
  | .fence _ _ _ _ _ => false
  | .fenceI _ _ _ => false
  | .ecall => false
  | .ebreak => false
  | .csrrw _ _ _ => false
  | .csrrs _ _ _ => false
  | .csrrc _ _ _ => false
  | .csrrwi _ _ _ => false
  | .csrrsi _ _ _ => false
  | .csrrci _ _ _ => false
  | .miscMemOther _ => false
  | .systemOther _ => false

/-- JAL, JALR and the branches (R13). -/
def isControlTransfer : Instr → Bool
  | .addi _ _ _ => false
  | .slti _ _ _ => false
  | .sltiu _ _ _ => false
  | .xori _ _ _ => false
  | .ori _ _ _ => false
  | .andi _ _ _ => false
  | .slli _ _ _ => false
  | .srli _ _ _ => false
  | .srai _ _ _ => false
  | .addiw _ _ _ => false
  | .slliw _ _ _ => false
  | .srliw _ _ _ => false
  | .sraiw _ _ _ => false
  | .lui _ _ => false
  | .auipc _ _ => false
  | .add _ _ _ => false
  | .sub _ _ _ => false
  | .sll _ _ _ => false
  | .slt _ _ _ => false
  | .sltu _ _ _ => false
  | .xor _ _ _ => false
  | .srl _ _ _ => false
  | .sra _ _ _ => false
  | .or _ _ _ => false
  | .and _ _ _ => false
  | .addw _ _ _ => false
  | .subw _ _ _ => false
  | .sllw _ _ _ => false
  | .srlw _ _ _ => false
  | .sraw _ _ _ => false
  | .jal _ _ => true
  | .jalr _ _ _ => true
  | .beq _ _ _ => true
  | .bne _ _ _ => true
  | .blt _ _ _ => true
  | .bge _ _ _ => true
  | .bltu _ _ _ => true
  | .bgeu _ _ _ => true
  | .lb _ _ _ => false
  | .lh _ _ _ => false
  | .lw _ _ _ => false
  | .ld _ _ _ => false
  | .lbu _ _ _ => false
  | .lhu _ _ _ => false
  | .lwu _ _ _ => false
  | .sb _ _ _ => false
  | .sh _ _ _ => false
  | .sw _ _ _ => false
  | .sd _ _ _ => false
  | .fence _ _ _ _ _ => false
  | .fenceI _ _ _ => false
  | .ecall => false
  | .ebreak => false
  | .csrrw _ _ _ => false
  | .csrrs _ _ _ => false
  | .csrrc _ _ _ => false
  | .csrrwi _ _ _ => false
  | .csrrsi _ _ _ => false
  | .csrrci _ _ _ => false
  | .miscMemOther _ => false
  | .systemOther _ => false

/-- Two states that differ at most in what register `r` holds: every other register reads the same, and pc,
status and memory are equal. -/
def AgreeBut (r : Reg) (s t : State) : Prop :=
  (∀ q, q ≠ r → readReg t q = readReg s q) ∧ t.pc = s.pc ∧ t.status = s.status ∧ t.mem = s.mem

/-- Two states no instruction and no introspection can tell apart: all registers read the same, and pc,
status and memory are equal. -/
def Indistinguishable (s t : State) : Prop :=
  RegistersKept s t ∧ t.pc = s.pc ∧ t.status = s.status ∧ t.mem = s.mem

/-- The opcodes of R66's table. -/
def assignedOpcodes : List Nat :=
  [0x33, 0x3B, 0x13, 0x1B, 0x03, 0x67, 0x23, 0x63, 0x37, 0x17, 0x6F, 0x0F, 0x73]

/-- The (opcode, funct3) pairs that R67 to R73 leave unassigned. -/
def unassignedPairs : List (Nat × Nat) :=
  [(0x03, 7), (0x23, 4), (0x23, 5), (0x23, 6), (0x23, 7), (0x63, 2), (0x63, 3),
   (0x1B, 2), (0x1B, 3), (0x1B, 4), (0x1B, 6), (0x1B, 7),
   (0x3B, 2), (0x3B, 3), (0x3B, 4), (0x3B, 6), (0x3B, 7),
   (0x67, 1), (0x67, 2), (0x67, 3), (0x67, 4), (0x67, 5), (0x67, 6), (0x67, 7)]

/-- `w[6:0]` as a number. -/
def opcodeOf (w : Word32) : Nat := w.toNat % 128

/-- `w[14:12]` as a number. -/
def funct3Of (w : Word32) : Nat := w.toNat / 2 ^ 12 % 8

/-- `w[31:25]` as a number. -/
def funct7Of (w : Word32) : Nat := w.toNat / 2 ^ 25

end Sys2Proof.Claims

open Sys2Proof Sys2Proof.Machine Sys2Proof.Claims

/-! ## The step -/

/-- 40_dispatch_and_step.md, R88: when the hart is Runnable, its pc is a multiple of 4, the 4 bytes there are in range and
they make a word that decodes to `i` (the byte at the pc is `w[7:0]`, R50), then a step is exec of `i` at
that state: the advance is part of exec. -/
def Obligations.StepRunsTheDecodedInstruction : Prop :=
  ∀ (s : State) (w : Word32) (i : Instr),
    s.status = .runnable → s.pc.toNat % 4 = 0 → Within s s.pc.toNat 4 →
    w.toNat = bytesValue s s.pc.toNat 4 → decodeWord w = .ok i →
    step s = exec i s ∧ step s = dispatchWord w s

/-- 60_exceptions.md, section 2 (the order of checks is the spec's decision D8, log entry 17): a Runnable hart's step
fails first on a misaligned pc, then on a fetch out of range, then on a word that names no operation, each
with the record of R164 to R166 and nothing else changed. -/
def Obligations.StepTakesTheFirstFailingCheck : Prop :=
  ∀ s : State, s.status = .runnable →
    (s.pc.toNat % 4 ≠ 0 → step s = .next (trapOf s .alignmentFault .fetch s.pc)) ∧
    (s.pc.toNat % 4 = 0 → ¬ Within s s.pc.toNat 4 →
      step s = .next (trapOf s .fetchFault .fetch s.pc)) ∧
    ∀ w : Word32, s.pc.toNat % 4 = 0 → Within s s.pc.toNat 4 →
      w.toNat = bytesValue s s.pc.toNat 4 → (∀ i, decodeWord w ≠ .ok i) →
      step s = .next (trapOf s .illegalInstruction .decode (BitVec.ofNat 64 w.toNat))

/-- R90, R171, R172: a step of a Runnable hart either gives the next state of the decoded instruction, still
Runnable, and returns `Ok`; or it records one exception, whose pc is the step-start pc, returns it, and
changes nothing but the status. -/
def Obligations.StepIsAllOrNothing : Prop :=
  ∀ s : State, s.status = .runnable → ∃ t, step s = .next t ∧
    ((t.status = .runnable ∧ stepResult t = .ok () ∧
        ∃ w i, fetchWord s = .ok w ∧ decodeWord w = .ok i ∧ exec i s = .next t) ∨
      ∃ e, t = { s with status := .trapped e } ∧ e.pc = s.pc ∧ stepResult t = .error e)

/-- 40_dispatch_and_step.md R92 (the spec's decision D13, log entry 7), R175, R176: however often `step()`
is called on a Trapped hart, no state changes and the recorded exception comes back. -/
def Obligations.TrappedHartStaysTrapped : Prop :=
  ∀ (s : State) (e : Exception) (n : Nat), s.status = .trapped e →
    stepsFrom n s = some s ∧ stepResult s = .error e

/-- 70_reset_and_hazards.md R190, 40_dispatch_and_step.md R93: any number of calls of `step()` from any state all give a next
state; nothing is refused and nothing stops the machine. -/
def Obligations.EveryCallOfStepAnswers : Prop :=
  ∀ (n : Nat) (s : State), ∃ t, stepsFrom n s = some t

/-! ## Registers -/

/-- R17: index 0 reads 0 for operands and for introspection, every other index reads its cell, and the
value held in storage cell 0 is never observable: a step from a state with another value there gives a
state that no register read, pc, status or memory tells apart. -/
def Obligations.ZeroRegisterIsNeverObservable : Prop :=
  (∀ s : State, readReg s 0 = 0 ∧ introspectReg s 0 = 0 ∧
    ∀ r : Reg, r ≠ 0 → readReg s r = s.regcell[r] ∧ introspectReg s r = s.regcell[r]) ∧
  (∀ (regs : Vector Word 32) (pc : Word) (m : Memory), readReg (State.construct regs pc m) 0 = 0) ∧
  ∀ (s t : State) (v : Word), step s = .next t →
    ∃ t', step { s with regcell := s.regcell.set 0 v } = .next t' ∧ Indistinguishable t t'

/-- 10_state.md, R16, over all instructions: no register but the destination changes, and where the
instruction has none (stores, branches, inert words) no register changes. -/
def Obligations.OnlyTheDestinationRegisterChanges : Prop :=
  ∀ (i : Instr) (s t : State) (r : Reg), exec i s = .next t → dest i ≠ some r →
    readReg t r = readReg s r

/-- 10_state.md, R16, over all instructions: an instruction reads no register its fields do not name.
Changing a register that is not a source changes no other register's result, nor pc, status or memory;
and where it is the destination of an instruction that completes, the value written is the same. -/
def Obligations.OnlyTheSourceRegistersAreRead : Prop :=
  ∀ (i : Instr) (s s' t : State) (r : Reg), r ∉ sources i → AgreeBut r s s' → exec i s = .next t →
    ∃ t', exec i s' = .next t' ∧ AgreeBut r t t' ∧
      (dest i = some r → s.status = .runnable → t.status = .runnable → readReg t' r = readReg t r)

/-! ## Whole-machine rules -/

/-- 20_memory.md, R44, over all instructions: only a store changes a byte of memory, and nothing changes the range. -/
def Obligations.OnlyStoresChangeMemory : Prop :=
  ∀ (i : Instr) (s t : State), exec i s = .next t →
    RangeKept s t ∧ (isStore i = false → MemoryKept s t)

/-- 40_dispatch_and_step.md, R81, R89, over all instructions: one that is no jump and no branch leaves
the pc at `pc + 4` when it completes and at the step-start pc when it takes an exception. -/
def Obligations.OnlyControlTransfersRedirect : Prop :=
  ∀ (i : Instr) (s t : State), isControlTransfer i = false → s.status = .runnable →
    exec i s = .next t →
    (t.status = .runnable → t.pc = s.pc + 4) ∧ (t.status ≠ .runnable → t.pc = s.pc)

/-- 60_exceptions.md, R168, over all instructions: one that is no load, store, jump or branch raises no exception,
whatever its operands: overflow, shifts of any amount, writes to x0 and every inert word complete. -/
def Obligations.OnlyMemoryAndControlInstructionsRaise : Prop :=
  ∀ (i : Instr) (s : State), isLoad i = false → isStore i = false → isControlTransfer i = false →
    ∃ t, exec i s = .next t ∧ t.status = s.status

/-! ## Integer instructions -/

/-- R95 to R100: ADDI, SLTI, SLTIU, XORI, ORI, ANDI: the words, the results, the frame. -/
def Obligations.OpImmInstructions : Prop :=
  ImmediateRule .addi 0x00000013 (fun a imm => ofInt (a.toInt + imm.toInt)) ∧
  ImmediateRule .slti 0x00002013 (fun a imm => flag (a.toInt < imm.toInt)) ∧
  ImmediateRule .sltiu 0x00003013 (fun a imm => flag ((a.toNat : Int) < imm.toInt % 2 ^ 64)) ∧
  ImmediateRule .xori 0x00004013 (fun a imm => a ^^^ ofInt imm.toInt) ∧
  ImmediateRule .ori 0x00006013 (fun a imm => a ||| ofInt imm.toInt) ∧
  ImmediateRule .andi 0x00007013 (fun a imm => a &&& ofInt imm.toInt)

/-- R101 to R103: SLLI, SRLI, SRAI: the words, the results, the frame, and IllegalInstruction on an
invalid discriminator `w[31:26]`. -/
def Obligations.OpImmShiftInstructions : Prop :=
  Shift6Rule .slli 0x00001013 (fun a k => BitVec.ofNat 64 (a.toNat * 2 ^ k)) ∧
  Shift6Rule .srli 0x00005013 (fun a k => BitVec.ofNat 64 (a.toNat / 2 ^ k)) ∧
  Shift6Rule .srai 0x40005013 (fun a k => ofInt (a.toInt / 2 ^ k)) ∧
  ∀ (w : Word32) (s : State), opcodeOf w = 0x13 →
    (funct3Of w = 1 → w.toNat / 2 ^ 26 ≠ 0 → IllegalHere w s) ∧
    (funct3Of w = 5 → w.toNat / 2 ^ 26 ≠ 0 → w.toNat / 2 ^ 26 ≠ 16 → IllegalHere w s)

/-- R104 to R107: ADDIW, SLLIW, SRLIW, SRAIW: the words, the sign-extended 32-bit results, the frame, and
IllegalInstruction on an invalid discriminator `w[31:25]`. -/
def Obligations.OpImm32Instructions : Prop :=
  ImmediateRule .addiw 0x0000001B (fun a imm => ofInt32 (a.toInt + imm.toInt)) ∧
  Shift5Rule .slliw 0x0000101B (fun a k => ofInt32 ((a.toNat % 2 ^ 32 : Nat) * 2 ^ k)) ∧
  Shift5Rule .srliw 0x0000501B (fun a k => ofInt32 ((a.toNat % 2 ^ 32 : Nat) / 2 ^ k)) ∧
  Shift5Rule .sraiw 0x4000501B (fun a k => ofInt (a.toInt.bmod (2 ^ 32) / 2 ^ k)) ∧
  ∀ (w : Word32) (s : State), opcodeOf w = 0x1B →
    (funct3Of w = 1 → funct7Of w ≠ 0 → IllegalHere w s) ∧
    (funct3Of w = 5 → funct7Of w ≠ 0 → funct7Of w ≠ 32 → IllegalHere w s)

/-- R108, R109: LUI and AUIPC: the words, the results, the frame. -/
def Obligations.UpperImmediateInstructions : Prop :=
  (DecodesWhen 0x00000037 0x0000007F (opU .lui) ∧
    ∀ rd imm s, WritesRd (.lui rd imm) s rd (ofInt imm.toInt) (s.pc + 4)) ∧
  (DecodesWhen 0x00000017 0x0000007F (opU .auipc) ∧
    ∀ rd imm s, WritesRd (.auipc rd imm) s rd (ofInt (s.pc.toNat + imm.toInt)) (s.pc + 4))

/-- R111 to R120: the ten OP instructions: the words, the results, the frame. -/
def Obligations.OpInstructions : Prop :=
  RegisterRule .add 0x00000033 (fun a b => ofInt (a.toInt + b.toInt)) ∧
  RegisterRule .sub 0x40000033 (fun a b => ofInt (a.toInt - b.toInt)) ∧
  RegisterRule .sll 0x00001033 (fun a b => BitVec.ofNat 64 (a.toNat * 2 ^ (b.toNat % 64))) ∧
  RegisterRule .slt 0x00002033 (fun a b => flag (a.toInt < b.toInt)) ∧
  RegisterRule .sltu 0x00003033 (fun a b => flag (a.toNat < b.toNat)) ∧
  RegisterRule .xor 0x00004033 (fun a b => a ^^^ b) ∧
  RegisterRule .srl 0x00005033 (fun a b => BitVec.ofNat 64 (a.toNat / 2 ^ (b.toNat % 64))) ∧
  RegisterRule .sra 0x40005033 (fun a b => ofInt (a.toInt / 2 ^ (b.toNat % 64))) ∧
  RegisterRule .or 0x00006033 (fun a b => a ||| b) ∧
  RegisterRule .and 0x00007033 (fun a b => a &&& b)

/-- R121 to R125: the five OP-32 instructions: the words, the sign-extended 32-bit results, the frame. -/
def Obligations.Op32Instructions : Prop :=
  RegisterRule .addw 0x0000003B (fun a b => ofInt32 (a.toInt + b.toInt)) ∧
  RegisterRule .subw 0x4000003B (fun a b => ofInt32 (a.toInt - b.toInt)) ∧
  RegisterRule .sllw 0x0000103B
    (fun a b => ofInt32 ((a.toNat % 2 ^ 32 : Nat) * 2 ^ (b.toNat % 32))) ∧
  RegisterRule .srlw 0x0000503B
    (fun a b => ofInt32 ((a.toNat % 2 ^ 32 : Nat) / 2 ^ (b.toNat % 32))) ∧
  RegisterRule .sraw 0x4000503B (fun a b => ofInt (a.toInt.bmod (2 ^ 32) / 2 ^ (b.toNat % 32)))

/-! ## Control transfer -/

/-- R128: JAL: the words; `target = pc + imm`; the link `pc + 4` and the redirect, or
AlignmentFault(Jump, target), which from an aligned pc and an even offset is exactly `imm mod 4 = 2`. -/
def Obligations.JumpAndLink : Prop :=
  DecodesWhen 0x0000006F 0x0000007F (opJ .jal) ∧
  ∀ rd (imm : BitVec 21) (s : State), ∀ target, target = ofInt (s.pc.toNat + imm.toInt) →
    (target.toNat % 4 = 0 → WritesRd (.jal rd imm) s rd (s.pc + 4) target) ∧
    (target.toNat % 4 ≠ 0 → Traps (.jal rd imm) s .alignmentFault .jump target) ∧
    (s.pc.toNat % 4 = 0 → evenOffset imm = true → (target.toNat % 4 ≠ 0 ↔ imm.toInt % 4 = 2))

/-- R129: JALR: the words; the target is the sum `x[rs1] + imm`, the old `x[rs1]`, with bit 0 cleared; the
link and the redirect, or AlignmentFault(Jump, target); an aligned target out of range faults on the next
step, not on the jump. -/
def Obligations.JumpAndLinkRegister : Prop :=
  DecodesWhen 0x00000067 0x0000707F (opI .jalr) ∧
  ∀ rd rs1 (imm : BitVec 12) (s : State), ∀ target,
    target = ofInt (((readReg s rs1).toInt + imm.toInt) / 2 * 2) →
    (target.toNat % 4 = 0 → WritesRd (.jalr rd rs1 imm) s rd (s.pc + 4) target) ∧
    (target.toNat % 4 ≠ 0 → Traps (.jalr rd rs1 imm) s .alignmentFault .jump target) ∧
    (target.toNat % 4 = 0 → s.status = .runnable → ¬ Within s target.toNat 4 →
      ∀ t, exec (.jalr rd rs1 imm) s = .next t → step t = .next (trapOf t .fetchFault .fetch target))

/-- R130 to R135: the six branches: the words, the decision, the target or AlignmentFault(Branch, target),
no register written. -/
def Obligations.ConditionalBranches : Prop :=
  BranchRule .beq 0x00000063 (fun a b => a.toNat = b.toNat) ∧
  BranchRule .bne 0x00001063 (fun a b => a.toNat ≠ b.toNat) ∧
  BranchRule .blt 0x00004063 (fun a b => a.toInt < b.toInt) ∧
  BranchRule .bge 0x00005063 (fun a b => a.toInt ≥ b.toInt) ∧
  BranchRule .bltu 0x00006063 (fun a b => a.toNat < b.toNat) ∧
  BranchRule .bgeu 0x00007063 (fun a b => a.toNat ≥ b.toNat)

/-- 43_control_transfer.md, R127, R165 (the spec's decisions D17, D18, log entry 18): a completed transfer
to an aligned target out of range does not fault; the next step does, with FetchFault at the target, and
the registers the transfer left stay. -/
def Obligations.OutOfRangeTargetFaultsOnTheNextStep : Prop :=
  ∀ (i : Instr) (s t : State), s.status = .runnable → isControlTransfer i = true →
    exec i s = .next t → t.status = .runnable → t.pc ≠ s.pc + 4 → ¬ Within s t.pc.toNat 4 →
    t.pc.toNat % 4 = 0 ∧ step t = .next (trapOf t .fetchFault .fetch t.pc)

/-! ## Loads and stores -/

/-- R138 to R144: the seven loads: the words, the exceptions, the value sign- or zero-extended, the frame. -/
def Obligations.Loads : Prop :=
  LoadRule .lb 0x00000003 1 (fun v => ofInt ((v : Int).bmod (2 ^ 8))) ∧
  LoadRule .lh 0x00001003 2 (fun v => ofInt ((v : Int).bmod (2 ^ 16))) ∧
  LoadRule .lw 0x00002003 4 (fun v => ofInt ((v : Int).bmod (2 ^ 32))) ∧
  LoadRule .ld 0x00003003 8 (fun v => BitVec.ofNat 64 v) ∧
  LoadRule .lbu 0x00004003 1 (fun v => BitVec.ofNat 64 v) ∧
  LoadRule .lhu 0x00005003 2 (fun v => BitVec.ofNat 64 v) ∧
  LoadRule .lwu 0x00006003 4 (fun v => BitVec.ofNat 64 v)

/-- R145 to R148: the four stores: the words, the exceptions, the bytes written, every other byte and every
register as before. -/
def Obligations.StoreInstructions : Prop :=
  StoreRule .sb 0x00000023 1 ∧ StoreRule .sh 0x00001023 2 ∧
  StoreRule .sw 0x00002023 4 ∧ StoreRule .sd 0x00003023 8

/-- 20_memory.md, R37, R46 (data byte order is the spec's decision D3, log entry 12): after an SD, an LD of
the same address gives the stored register back, and an LBU of its byte `k` gives byte `k` of it, the least
significant at the lowest address. -/
def Obligations.StoredDoublewordReadsBack : Prop :=
  ∀ (s t : State) (rs2 rs1 : Reg) (imm : BitVec 12),
    s.mem.wf → (eaOf s rs1 imm).toNat % 8 = 0 → Within s (eaOf s rs1 imm).toNat 8 →
    exec (.sd rs2 rs1 imm) s = .next t →
    (∀ (rd q : Reg) (imm' : BitVec 12), eaOf t q imm' = eaOf s rs1 imm →
      WritesRd (.ld rd q imm') t rd (readReg s rs2) (t.pc + 4)) ∧
    ∀ (rd q : Reg) (imm' : BitVec 12) (k : Nat), k < 8 →
      (eaOf t q imm').toNat = (eaOf s rs1 imm).toNat + k →
      WritesRd (.lbu rd q imm') t rd (BitVec.ofNat 64 ((readReg s rs2).toNat / 2 ^ (8 * k) % 256))
        (t.pc + 4)

/-- 20_memory.md, R48, R188 (the spec's decision D23, log entry 20): an SW over the very next instruction's
bytes is what the next step fetches and runs, with no fence. -/
def Obligations.StoredWordIsExecutedNext : Prop :=
  ∀ (s t : State) (rs2 rs1 : Reg) (imm : BitVec 12) (i : Instr),
    s.status = .runnable → s.mem.wf → eaOf s rs1 imm = s.pc + 4 → (s.pc + 4).toNat % 4 = 0 →
    Within s (s.pc + 4).toNat 4 → exec (.sw rs2 rs1 imm) s = .next t →
    decodeWord (BitVec.ofNat 32 (readReg s rs2).toNat) = .ok i → step t = exec i t

/-! ## Inert words -/

/-- R151 to R160: FENCE, FENCE.I, ECALL, EBREAK and the six CSR instructions: the words, and the step that
only advances the pc; no CSR exists and `rd` is not written. -/
def Obligations.InertInstructions : Prop :=
  InertRule (fun w => .fence (w.extractLsb' 28 4) (w.extractLsb' 24 4) (w.extractLsb' 20 4)
    (regAt w 15) (regAt w 7)) 0x0000000F 0x0000707F ∧
  InertRule (opI .fenceI) 0x0000100F 0x0000707F ∧
  InertRule (fun _ => .ecall) 0x00000073 0xFFFFFFFF ∧
  InertRule (fun _ => .ebreak) 0x00100073 0xFFFFFFFF ∧
  InertRule (opI .csrrw) 0x00001073 0x0000707F ∧
  InertRule (opI .csrrs) 0x00002073 0x0000707F ∧
  InertRule (opI .csrrc) 0x00003073 0x0000707F ∧
  InertRule (fun w => .csrrwi (regAt w 7) (w.extractLsb' 15 5) (w.extractLsb' 20 12))
    0x00005073 0x0000707F ∧
  InertRule (fun w => .csrrsi (regAt w 7) (w.extractLsb' 15 5) (w.extractLsb' 20 12))
    0x00006073 0x0000707F ∧
  InertRule (fun w => .csrrci (regAt w 7) (w.extractLsb' 15 5) (w.extractLsb' 20 12))
    0x00007073 0x0000707F

/-- 30_encoding.md R75 and 45_inert_fence_system.md R161 (the spec's decision D12, log entry 21): EVERY word with opcode
0x0F or 0x73 is classified inert; a word no named row takes is one of the two catch-all instructions, which
only advance the pc; and R91: once fetched, the word changes nothing but the pc, by 4. -/
def Obligations.EveryFenceOrSystemWordIsInert : Prop :=
  (∀ (w : Word32) (s : State), opcodeOf w = 0x0F ∨ opcodeOf w = 0x73 →
    classify w = .instr (.inert w) ∧ dispatchWord w s = .next { s with pc := s.pc + 4 }) ∧
  (∀ w : Word32, opcodeOf w = 0x0F → funct3Of w ≠ 0 → funct3Of w ≠ 1 →
    decodeWord w = .ok (.miscMemOther w)) ∧
  (∀ w : Word32, opcodeOf w = 0x73 →
    (funct3Of w = 4 ∨ funct3Of w = 0 ∧ w.toNat ≠ 0x00000073 ∧ w.toNat ≠ 0x00100073) →
    decodeWord w = .ok (.systemOther w)) ∧
  ∀ (w : Word32) (s : State),
    MovesPc (.miscMemOther w) s (s.pc + 4) ∧ MovesPc (.systemOther w) s (s.pc + 4)

/-! ## Illegal words -/

/-- 30_encoding.md section 5, R76, and 60_exceptions.md R164: the classifier answers `Illegal` exactly for
the words whose opcode is outside the table or whose (opcode, funct3) pair is unassigned, any word whose low
two bits are not 11 among them, and the step of such a word takes IllegalInstruction recording the word,
with nothing else changed. -/
def Obligations.UnassignedWordsAreIllegal : Prop :=
  ∀ (w : Word32) (s : State),
    (classify w = .illegal ↔
      opcodeOf w ∉ assignedOpcodes ∨ (opcodeOf w, funct3Of w) ∈ unassignedPairs) ∧
    (w.toNat % 4 ≠ 3 → classify w = .illegal) ∧ (classify w = .illegal → IllegalHere w s)

/-- 40_dispatch_and_step.md R84 (the spec's decision D9, log entry 15): inside an assigned pair, a funct7 or
a shift discriminator that names no operation is not illegal to the classifier, and ends in
IllegalInstruction with no side effect. -/
def Obligations.UnassignedSelectorsAreIllegal : Prop :=
  ∀ (w : Word32) (s : State),
    (opcodeOf w = 0x33 ∧ funct7Of w ≠ 0 ∧
        ¬ (funct7Of w = 32 ∧ (funct3Of w = 0 ∨ funct3Of w = 5)) ∨
      opcodeOf w = 0x3B ∧ (funct3Of w = 0 ∨ funct3Of w = 1 ∨ funct3Of w = 5) ∧ funct7Of w ≠ 0 ∧
        ¬ (funct7Of w = 32 ∧ (funct3Of w = 0 ∨ funct3Of w = 5)) ∨
      opcodeOf w = 0x13 ∧ funct3Of w = 1 ∧ w.toNat / 2 ^ 26 ≠ 0 ∨
      opcodeOf w = 0x13 ∧ funct3Of w = 5 ∧ w.toNat / 2 ^ 26 ≠ 0 ∧ w.toNat / 2 ^ 26 ≠ 16 ∨
      opcodeOf w = 0x1B ∧ funct3Of w = 1 ∧ funct7Of w ≠ 0 ∨
      opcodeOf w = 0x1B ∧ funct3Of w = 5 ∧ funct7Of w ≠ 0 ∧ funct7Of w ≠ 32) →
    classify w ≠ .illegal ∧ IllegalHere w s

/-! ## Encoding -/

/-- 30_encoding.md sections 2 to 5: decoding an encoded well-formed instruction gives it back, for every
instruction and every value of its operands. -/
def Obligations.DecodeOfEncodeIsTheInstruction : Prop :=
  ∀ i : Instr, i.wellFormed = true →
    decodeWord (encode i) = .ok i ∧
      ∀ rest, decodeBytes (bytesOfWord (encode i) ++ rest) = .ok (i, rest)

/-- 30_encoding.md sections 2 to 5: a word that decodes is the encoding of the one well-formed instruction
it decodes to: no bit of the word is dropped, and no ill-formed instruction is produced. -/
def Obligations.EncodeOfDecodeIsTheWord : Prop :=
  ∀ (w : Word32) (i : Instr), decodeWord w = .ok i → i.wellFormed = true ∧ encode i = w

/-- opcode_table.json: a word decodes exactly when it has the fixed bits of some row of the table, and the
instruction it decodes to is of a row whose fixed bits it has. -/
def Obligations.DecodableWordsAreTheTables : Prop :=
  (∀ (w : Word32) (i : Instr), decodeWord w = .ok i → i.tableRow.fits w = true) ∧
  ∀ w : Word32, (∃ i, decodeWord w = .ok i) ↔ ∃ i : Instr, i.tableRow.fits w = true

/-- R55 to R60: the six extractors, every field and immediate by place in the word; an immediate of `N`
bits is its unsigned value less `2^N` when bit 31 of the word is set. -/
def Obligations.ExtractorsReadTheFields : Prop :=
  ∀ (w : Word32),
    (extractR w = { opcode := w.extractLsb' 0 7, funct3 := w.extractLsb' 12 3,
                    funct7 := w.extractLsb' 25 7, rs1 := regAt w 15, rs2 := regAt w 20,
                    rd := regAt w 7 }) ∧
    ((extractI w).opcode.toNat = opcodeOf w ∧ (extractI w).funct3.toNat = funct3Of w ∧
      (extractI w).rs1 = regAt w 15 ∧ (extractI w).rd = regAt w 7 ∧
      (extractI w).imm.toInt =
        ((w.toNat / 2 ^ 20 : Nat) : Int) - (if w.toNat / 2 ^ 31 = 1 then 2 ^ 12 else 0)) ∧
    ((extractS w).opcode.toNat = opcodeOf w ∧ (extractS w).funct3.toNat = funct3Of w ∧
      (extractS w).rs1 = regAt w 15 ∧ (extractS w).rs2 = regAt w 20 ∧
      (extractS w).imm.toInt =
        ((w.toNat / 2 ^ 25 * 2 ^ 5 + w.toNat / 2 ^ 7 % 2 ^ 5 : Nat) : Int) -
          (if w.toNat / 2 ^ 31 = 1 then 2 ^ 12 else 0)) ∧
    ((extractB w).opcode.toNat = opcodeOf w ∧ (extractB w).funct3.toNat = funct3Of w ∧
      (extractB w).rs1 = regAt w 15 ∧ (extractB w).rs2 = regAt w 20 ∧
      (extractB w).imm.toInt =
        ((w.toNat / 2 ^ 31 * 2 ^ 12 + w.toNat / 2 ^ 7 % 2 * 2 ^ 11 +
            w.toNat / 2 ^ 25 % 2 ^ 6 * 2 ^ 5 + w.toNat / 2 ^ 8 % 2 ^ 4 * 2 : Nat) : Int) -
          (if w.toNat / 2 ^ 31 = 1 then 2 ^ 13 else 0)) ∧
    ((extractU w).opcode.toNat = opcodeOf w ∧ (extractU w).rd = regAt w 7 ∧
      (extractU w).imm.toInt =
        ((w.toNat / 2 ^ 12 * 2 ^ 12 : Nat) : Int) - (if w.toNat / 2 ^ 31 = 1 then 2 ^ 32 else 0)) ∧
    ((extractJ w).opcode.toNat = opcodeOf w ∧ (extractJ w).rd = regAt w 7 ∧
      (extractJ w).imm.toInt =
        ((w.toNat / 2 ^ 31 * 2 ^ 20 + w.toNat / 2 ^ 12 % 2 ^ 8 * 2 ^ 12 +
            w.toNat / 2 ^ 20 % 2 * 2 ^ 11 + w.toNat / 2 ^ 21 % 2 ^ 10 * 2 : Nat) : Int) -
          (if w.toNat / 2 ^ 31 = 1 then 2 ^ 21 else 0))

/-- 30_encoding.md R62 (the spec marks it derived from R58 to R60): B and J immediates are even, U
immediates are multiples of 4096, and an I, S, B or J immediate is negative exactly when bit 31 is set. -/
def Obligations.ImmediateInvariants : Prop :=
  ∀ w : Word32,
    (extractB w).imm.toInt % 2 = 0 ∧ (extractJ w).imm.toInt % 2 = 0 ∧
    (extractU w).imm.toInt % 4096 = 0 ∧
    ((extractI w).imm.toInt < 0 ↔ w.toNat / 2 ^ 31 = 1) ∧
    ((extractS w).imm.toInt < 0 ↔ w.toNat / 2 ^ 31 = 1) ∧
    ((extractB w).imm.toInt < 0 ↔ w.toNat / 2 ^ 31 = 1) ∧
    ((extractJ w).imm.toInt < 0 ↔ w.toNat / 2 ^ 31 = 1)

/-- 95_test_vectors.md sections 1 and 2, one word a family: the words the spec writes out decode to the
instructions it names. -/
def Obligations.WordsOfTheSpecDecode : Prop :=
  decodeTableWord 32 0xFFF00293 = some (.addi 5 0 (-1)) ∧
  decodeTableWord 32 0x43F35293 = some (.srai 5 6 63) ∧
  decodeTableWord 32 0x4043529B = some (.sraiw 5 6 4) ∧
  decodeTableWord 32 0x800002B7 = some (.lui 5 0x80000000) ∧
  decodeTableWord 32 0x407302B3 = some (.sub 5 6 7) ∧
  decodeTableWord 32 0x407352BB = some (.sraw 5 6 7) ∧
  decodeTableWord 32 0xFFDFF0EF = some (.jal 1 (-4)) ∧
  decodeTableWord 32 0x004280E7 = some (.jalr 1 5 4) ∧
  decodeTableWord 32 0xFE059CE3 = some (.bne 11 0 (-8)) ∧
  decodeTableWord 32 0xFF833283 = some (.ld 5 6 (-8)) ∧
  decodeTableWord 32 0xFE62BFA3 = some (.sd 6 5 (-1)) ∧
  decodeTableWord 32 0x300312F3 = some (.csrrw 5 6 0x300) ∧
  decodeTableWord 32 0x10500073 = some (.systemOther 0x10500073) ∧
  decodeTableWord 32 0xFFFFFFFF = none

/-! ## Construction, reset and the invariant -/

/-- 70_reset_and_hazards.md R181, R182: construction sets the registers, the pc and the status Runnable with
nothing recorded, takes the memory as it is, and x0 reads 0 whatever INIT_REGS holds there. -/
def Obligations.ConstructionIsReset : Prop :=
  ∀ (regs : Vector Word 32) (pc : Word) (m : Memory), ∀ s, s = State.construct regs pc m →
    s.regcell = regs ∧ s.pc = pc ∧ s.status = .runnable ∧ recordedException s = none ∧ s.mem = m ∧
    readReg s 0 = 0

/-- The model's choice (log entries 1 to 4: the spec leaves these parameters open; Runnable is R181's): the
values after reset: every register 0, pc 0, Runnable, and every byte of a 2^64-byte range reads 0. -/
def Obligations.ResetState : Prop :=
  (∀ r, readReg State.reset r = 0) ∧ State.reset.pc = 0 ∧ State.reset.status = .runnable ∧
  State.reset.mem.base = 0 ∧ State.reset.mem.size = 2 ^ 64 ∧ ∀ a, State.reset.mem.readByte a = 0

/-- 70_reset_and_hazards.md R183 (the spec's decision D7, log entry 16): construction with a pc that is not
fetchable succeeds, and the first step takes AlignmentFault(Fetch), or FetchFault when the pc is aligned
but out of range. -/
def Obligations.UnfetchableBootFaultsOnTheFirstStep : Prop :=
  ∀ (regs : Vector Word 32) (pc : Word) (m : Memory), ∀ s, s = State.construct regs pc m →
    s.status = .runnable ∧
    (pc.toNat % 4 ≠ 0 → step s = .next (trapOf s .alignmentFault .fetch pc)) ∧
    (pc.toNat % 4 = 0 → ¬ Within s pc.toNat 4 → step s = .next (trapOf s .fetchFault .fetch pc))

/-- The model's convention for a program loaded from outside (log entry 6, 70_reset_and_hazards.md R184): with a word placed
where the hart fetches, a Runnable hart at a fetchable pc steps by exactly that word, and only the 4 bytes
there have changed. -/
def Obligations.PlacedWordIsTheOneThatRuns : Prop :=
  ∀ (s : State) (w : Word32), s.status = .runnable → s.mem.wf → s.pc.toNat % 4 = 0 →
    Within s s.pc.toNat 4 → ∀ t, t = s.withFetchWord 32 w.toNat →
    step t = dispatchWord w t ∧ RegistersKept s t ∧ t.pc = s.pc ∧ t.status = s.status ∧
    RangeKept s t ∧
    ∀ a, a < s.pc.toNat ∨ s.pc.toNat + 4 ≤ a → t.mem.readByte a = s.mem.readByte a

/-- 10_state.md R22, 20_memory.md R33, 60_exceptions.md R163 to R169: every step keeps the invariant: memory
in canonical form within its range, the pc a multiple of 4, and a record that shows the failure it reports,
for every kind and access. -/
def Obligations.StepKeepsTheInvariant : Prop :=
  ∀ s t : State, Inv s → step s = .next t → Inv t

/-- The invariant holds at reset, and at every construction that meets the boot requirement of
70_reset_and_hazards.md R183. -/
def Obligations.BootStatesHaveTheInvariant : Prop :=
  Inv State.reset ∧
  ∀ (regs : Vector Word 32) (pc : Word) (m : Memory), m.wf → pc.toNat % 4 = 0 →
    Inv (State.construct regs pc m)

/-- 60_exceptions.md R166 with 10_state.md R22, over runs: from a construction with memory in canonical form
and an INIT_PC that is a multiple of 4, no run of any length ever ends in AlignmentFault(Fetch): a fetch that
fails, fails on the range. That a misaligned fetch takes AlignmentFault(Fetch) is the spec's decision D7 (log
entry 16), and the record's access field its decision D14 (log entry 17). The step lemma of this statement is
`Obligations.StepKeepsTheInvariant`. -/
def Obligations.AlignedBootNeverMisfetches : Prop :=
  ∀ (regs : Vector Word 32) (pc : Word) (m : Memory) (n : Nat) (t : State) (e : Exception),
    m.wf → pc.toNat % 4 = 0 →
    stepsFrom n (State.construct regs pc m) = some t →
    t.status = .trapped e → e.access = .fetch →
    e.kind = .fetchFault ∧ e.pc = t.pc ∧ ¬ Within t t.pc.toNat 4
end

