-- ==== Sys2Proof/Laws/Encoding.lean ====
section
/-! SUPPORT. Fields of placed values (30_encoding.md R53 to R60): what a field of a word is when the word
is an OR of placed fields, and how the split immediates are put together again. -/

namespace Sys2Proof

@[simp] theorem getLsbD_bits (w : Word32) (lo len i : Nat) :
    (bits w lo len).getLsbD i = (decide (i < len) && w.getLsbD (lo + i)) := by
  simp [bits]

@[simp] theorem getLsbD_place (m : Nat) {n : Nat} (v : BitVec n) (lo i : Nat) :
    (place m v lo).getLsbD i = (decide (i < m) && (decide (lo ≤ i) && v.getLsbD (i - lo))) := by
  rw [place, BitVec.getLsbD_shiftLeft, BitVec.getLsbD_setWidth]
  by_cases h1 : i < m
  · by_cases h2 : lo ≤ i
    · simp [h1, h2, show i - lo < m by omega, Nat.not_lt.2 h2]
    · simp [h1, h2, Nat.lt_of_not_le h2]
  · simp [h1]

@[simp] theorem getElem_bits (w : Word32) (lo len i : Nat) (h : i < len) :
    (bits w lo len)[i] = w.getLsbD (lo + i) := by
  rw [← BitVec.getLsbD_eq_getElem, getLsbD_bits]; simp [h]

@[simp] theorem getElem_place (m : Nat) {n : Nat} (v : BitVec n) (lo i : Nat) (h : i < m) :
    (place m v lo)[i] = (decide (lo ≤ i) && v.getLsbD (i - lo)) := by
  rw [← BitVec.getLsbD_eq_getElem, getLsbD_place]; simp [h]

@[simp] theorem regOf_regBits (r : Reg) : regOf (regBits r) = r := by
  apply Fin.ext
  simp [regOf, regBits]

@[simp] theorem regBits_regOf (v : BitVec 5) : regBits (regOf v) = v := by
  apply BitVec.eq_of_toNat_eq
  simp [regOf, regBits]

/-! ## A field of an OR of placed fields -/

theorem bits_or (x y : Word32) (lo len : Nat) :
    bits (x ||| y) lo len = bits x lo len ||| bits y lo len := by
  apply BitVec.eq_of_getLsbD_eq
  intro i hi
  simp [hi]

/-- The field read at its own place. -/
theorem bits_place_same {n : Nat} (v : BitVec n) (lo : Nat) (h : lo + n ≤ 32) :
    bits (place 32 v lo) lo n = v := by
  apply BitVec.eq_of_getLsbD_eq
  intro i hi
  simp [hi, show lo + i < 32 by omega]

/-- A part of a field. -/
theorem bits_place_within {n : Nat} (v : BitVec n) (lo l k : Nat) (h1 : lo ≤ l)
    (h2 : l + k ≤ 32) : bits (place 32 v lo) l k = v.extractLsb' (l - lo) k := by
  apply BitVec.eq_of_getLsbD_eq
  intro i hi
  have e : l + i - lo = l - lo + i := by omega
  simp [hi, show l + i < 32 by omega, show lo ≤ l + i by omega, e]

/-- A field read where another one stands. -/
theorem bits_place_disjoint {n : Nat} (v : BitVec n) (lo l k : Nat)
    (h : l + k ≤ lo ∨ lo + n ≤ l) : bits (place 32 v lo) l k = 0#k := by
  apply BitVec.eq_of_getLsbD_eq
  intro i hi
  rcases h with h | h
  · simp [show ¬ lo ≤ l + i by omega]
  · simp [show v.getLsbD (l + i - lo) = false from BitVec.getLsbD_of_ge _ _ (by omega)]

/-! ## Split immediates -/

/-- The two pieces of an S immediate give it back (R57). -/
theorem joinS (imm : BitVec 12) :
    place 12 (imm.extractLsb' 5 7) 5 ||| place 12 (imm.extractLsb' 0 5) 0 = imm := by
  apply BitVec.eq_of_getLsbD_eq
  intro i hi
  by_cases h : 5 ≤ i
  · simp [hi, h, show i - 5 < 7 by omega, show 5 + (i - 5) = i by omega]
  · simp [hi, h, show i < 5 by omega]

theorem getElem_zero_of_even {n : Nat} {imm : BitVec n} (h : evenOffset imm = true) (hn : 0 < n) :
    imm[0] = false := by
  have h2 : imm.toNat % 2 = 0 := by simpa [evenOffset] using h
  rw [← BitVec.getLsbD_eq_getElem, ← BitVec.testBit_toNat, Nat.testBit_zero]
  simp [h2]

/-- The four pieces of an even B immediate give it back (R58). -/
theorem joinB (imm : BitVec 13) (h : evenOffset imm = true) :
    place 13 (imm.extractLsb' 12 1) 12 ||| place 13 (imm.extractLsb' 11 1) 11 |||
      place 13 (imm.extractLsb' 5 6) 5 ||| place 13 (imm.extractLsb' 1 4) 1 = imm := by
  have h0 := getElem_zero_of_even h (by omega)
  apply BitVec.eq_of_getLsbD_eq
  intro i hi
  interval_cases i <;> simp [h0]

/-- The four pieces of an even J immediate give it back (R60). -/
theorem joinJ (imm : BitVec 21) (h : evenOffset imm = true) :
    place 21 (imm.extractLsb' 20 1) 20 ||| place 21 (imm.extractLsb' 12 8) 12 |||
      place 21 (imm.extractLsb' 11 1) 11 ||| place 21 (imm.extractLsb' 1 10) 1 = imm := by
  have h0 := getElem_zero_of_even h (by omega)
  apply BitVec.eq_of_getLsbD_eq
  intro i hi
  interval_cases i <;> simp [h0]

/-- The low 12 bits of an upper immediate are 0 (R62). -/
theorem getElem_low_of_upper {imm : BitVec 32} (h : upperImmediate imm = true) (i : Nat) (hi : i < 12) :
    imm[i] = false := by
  have h2 : imm.toNat % 2 ^ 12 = 0 := by simpa [upperImmediate] using h
  have := Nat.testBit_mod_two_pow imm.toNat 12 i
  rw [h2] at this
  rw [← BitVec.getLsbD_eq_getElem, ← BitVec.testBit_toNat]
  simpa [hi] using this.symm

/-- Bits 31:12 of an upper immediate, put back, give it back (R59). -/
theorem joinU (imm : BitVec 32) (h : upperImmediate imm = true) :
    place 32 (imm.extractLsb' 12 20) 12 = imm := by
  apply BitVec.eq_of_getLsbD_eq
  intro i hi
  by_cases h12 : 12 ≤ i
  · simp [hi, h12, show i - 12 < 20 by omega, show 12 + (i - 12) = i by omega]
  · simp [hi, h12, getElem_low_of_upper h i (by omega)]

/-- Masking off the low 12 bits (R59) leaves exactly the upper 20 in place. -/
theorem immU_eq (w : Word32) : immU w = place 32 (bits w 12 20) 12 := by
  apply BitVec.eq_of_getLsbD_eq
  intro i hi
  interval_cases i <;> simp [immU]

/-! ## Extracting what was encoded (R55 to R60) -/

theorem extractR_encodeR (f7 : BitVec 7) (rs2 rs1 : Reg) (f3 : BitVec 3) (rd : Reg) (opc : BitVec 7) :
    extractR (encodeR f7 rs2 rs1 f3 rd opc) = ⟨opc, f3, f7, rs1, rs2, rd⟩ := by
  simp [extractR, encodeR, opcode, funct3, funct7, fieldRd, fieldRs1, fieldRs2, bits_or,
    bits_place_same, bits_place_disjoint]

theorem extractI_encodeI (imm : BitVec 12) (rs1 : Reg) (f3 : BitVec 3) (rd : Reg) (opc : BitVec 7) :
    extractI (encodeI imm rs1 f3 rd opc) = ⟨opc, f3, rs1, rd, imm⟩ := by
  simp [extractI, encodeI, opcode, funct3, fieldRd, fieldRs1, immI, bits_or, bits_place_same,
    bits_place_disjoint]

theorem extractS_encodeS (imm : BitVec 12) (rs2 rs1 : Reg) (f3 : BitVec 3) (opc : BitVec 7) :
    extractS (encodeS imm rs2 rs1 f3 opc) = ⟨opc, f3, rs1, rs2, imm⟩ := by
  simp [extractS, encodeS, opcode, funct3, fieldRs1, fieldRs2, immS, bits_or, bits_place_same,
    bits_place_disjoint, joinS]

theorem extractB_encodeB (imm : BitVec 13) (rs2 rs1 : Reg) (f3 : BitVec 3) (opc : BitVec 7)
    (h : evenOffset imm = true) : extractB (encodeB imm rs2 rs1 f3 opc) = ⟨opc, f3, rs1, rs2, imm⟩ := by
  simp [extractB, encodeB, opcode, funct3, fieldRs1, fieldRs2, immB, bits_or, bits_place_same,
    bits_place_disjoint, joinB _ h]

theorem extractU_encodeU (imm : BitVec 32) (rd : Reg) (opc : BitVec 7) (h : upperImmediate imm = true) :
    extractU (encodeU imm rd opc) = ⟨opc, rd, imm⟩ := by
  have hu : immU (encodeU imm rd opc) = imm := by
    rw [immU_eq, encodeU, bits_or, bits_or, bits_place_same _ _ (by omega),
      bits_place_disjoint _ _ _ _ (by omega), bits_place_disjoint _ _ _ _ (by omega)]
    simpa using joinU imm h
  rw [extractU, hu]
  simp [encodeU, opcode, fieldRd, bits_or, bits_place_same, bits_place_disjoint]

theorem extractJ_encodeJ (imm : BitVec 21) (rd : Reg) (opc : BitVec 7) (h : evenOffset imm = true) :
    extractJ (encodeJ imm rd opc) = ⟨opc, rd, imm⟩ := by
  simp [extractJ, encodeJ, opcode, fieldRd, immJ, bits_or, bits_place_same, bits_place_disjoint,
    joinJ _ h]

end Sys2Proof
end

