-- ==== Sys2Proof/Laws/State.lean ====
section
/-! SUPPORT. What each update of the state changes and what it leaves: one lemma per field and update,
and the laws of the register file (10_state.md R17, R18). -/

namespace Sys2Proof.Machine

@[simp] theorem setPc_regcell (pc : Word) (s : State) : (setPc pc s).regcell = s.regcell := rfl
@[simp] theorem setPc_pc (pc : Word) (s : State) : (setPc pc s).pc = pc := rfl
@[simp] theorem setPc_status (pc : Word) (s : State) : (setPc pc s).status = s.status := rfl
@[simp] theorem setPc_mem (pc : Word) (s : State) : (setPc pc s).mem = s.mem := rfl
@[simp] theorem setStatus_regcell (st : Status) (s : State) : (setStatus st s).regcell = s.regcell := rfl
@[simp] theorem setStatus_pc (st : Status) (s : State) : (setStatus st s).pc = s.pc := rfl
@[simp] theorem setStatus_status (st : Status) (s : State) : (setStatus st s).status = st := rfl
@[simp] theorem setStatus_mem (st : Status) (s : State) : (setStatus st s).mem = s.mem := rfl
@[simp] theorem setMem_regcell (m : Memory) (s : State) : (setMem m s).regcell = s.regcell := rfl
@[simp] theorem setMem_pc (m : Memory) (s : State) : (setMem m s).pc = s.pc := rfl
@[simp] theorem setMem_status (m : Memory) (s : State) : (setMem m s).status = s.status := rfl
@[simp] theorem setMem_mem (m : Memory) (s : State) : (setMem m s).mem = m := rfl

@[simp] theorem takeException_regcell (r : Raise) (s : State) :
    (takeException r s).regcell = s.regcell := rfl
@[simp] theorem takeException_pc (r : Raise) (s : State) :
    (takeException r s).pc = s.pc := rfl
@[simp] theorem takeException_status (r : Raise) (s : State) :
    (takeException r s).status = .trapped ⟨r.kind, s.pc, r.access, r.addr⟩ := rfl
@[simp] theorem takeException_mem (r : Raise) (s : State) :
    (takeException r s).mem = s.mem := rfl

@[simp] theorem construct_regcell (r : Vector Word 32) (pc : Word) (m : Memory) :
    (State.construct r pc m).regcell = r := rfl
@[simp] theorem construct_pc (r : Vector Word 32) (pc : Word) (m : Memory) :
    (State.construct r pc m).pc = pc := rfl
@[simp] theorem construct_status (r : Vector Word 32) (pc : Word) (m : Memory) :
    (State.construct r pc m).status = .runnable := rfl
@[simp] theorem construct_mem (r : Vector Word 32) (pc : Word) (m : Memory) :
    (State.construct r pc m).mem = m := rfl

/-! ## The register file -/

@[simp] theorem writeReg_pc (rd : Reg) (v : Word) (s : State) : (writeReg rd v s).pc = s.pc := by
  unfold writeReg; split <;> rfl
@[simp] theorem writeReg_status (rd : Reg) (v : Word) (s : State) :
    (writeReg rd v s).status = s.status := by
  unfold writeReg; split <;> rfl
@[simp] theorem writeReg_mem (rd : Reg) (v : Word) (s : State) : (writeReg rd v s).mem = s.mem := by
  unfold writeReg; split <;> rfl

/-- The zero guard: index 0 reads 0 whatever its cell holds (R17). -/
@[simp] theorem readReg_zero (s : State) : readReg s 0 = 0 := rfl

theorem readReg_of_ne_zero (s : State) {r : Reg} (h : r ≠ 0) : readReg s r = s.regcell[r] := by
  simp [readReg, h]

/-- A write to index 0 changes nothing (R18). -/
@[simp] theorem writeReg_zero (v : Word) (s : State) : writeReg 0 v s = s := rfl

/-- Reading what was written: the value, or 0 at index 0 (R17, R18). -/
@[simp] theorem readReg_writeReg_same (rd : Reg) (v : Word) (s : State) :
    readReg (writeReg rd v s) rd = if rd = 0 then 0 else v := by
  by_cases h : rd = 0 <;> simp [readReg, writeReg, h]

/-- A write leaves every other register alone. -/
theorem readReg_writeReg_other (rd r : Reg) (v : Word) (s : State) (h : r ≠ rd) :
    readReg (writeReg rd v s) r = readReg s r := by
  have hv : (rd : Nat) ≠ r := fun e => h (Fin.ext e.symm)
  by_cases h0 : rd = 0
  · simp [writeReg, h0]
  · simp [readReg, writeReg, h0, hv]

@[simp] theorem readReg_setPc (pc : Word) (s : State) (r : Reg) :
    readReg (setPc pc s) r = readReg s r := rfl
@[simp] theorem readReg_setStatus (st : Status) (s : State) (r : Reg) :
    readReg (setStatus st s) r = readReg s r := rfl
@[simp] theorem readReg_setMem (m : Memory) (s : State) (r : Reg) :
    readReg (setMem m s) r = readReg s r := rfl
@[simp] theorem readReg_takeException (x : Raise) (s : State) (r : Reg) :
    readReg (takeException x s) r = readReg s r := rfl

end Sys2Proof.Machine
end

