-- ==== Sys2Proof/Laws/Memory.lean ====
section
/-! SUPPORT. The laws of memory: a write is read back and leaves every other byte alone, and every
operation keeps the canonical form and the range (20_memory.md R33 to R37). -/

namespace Sys2Proof.Machine

/-! ## Cell lists -/

theorem lookupCell_of_lt {cs : List Host.Cell} {a : Nat} (h : ∀ c ∈ cs, a < c.1) :
    lookupCell cs a = Config.unlistedByte := by
  induction cs with
  | nil => rfl
  | cons c cs ih =>
    have hc := h c (by simp)
    simp only [lookupCell, if_neg (show ¬ c.1 = a by omega)]
    exact ih fun d hd => h d (by simp [hd])

theorem lookupCell_insertCell_other (cs : List Host.Cell) (a b : Nat) (v : Byte) (h : b ≠ a) :
    lookupCell (insertCell cs a v) b = lookupCell cs b := by
  induction cs with
  | nil => unfold insertCell; split <;> simp [lookupCell, Ne.symm h]
  | cons c cs ih =>
    obtain ⟨k, w⟩ := c
    unfold insertCell
    split
    · split <;> simp [lookupCell, Ne.symm h]
    · split
      · subst_vars; split <;> simp [lookupCell, Ne.symm h]
      · simp only [lookupCell, ih]

theorem lookupCell_insertCell_same (cs : List Host.Cell) (a : Nat) (v : Byte)
    (hs : cs.Pairwise fun c d => c.1 < d.1) : lookupCell (insertCell cs a v) a = v := by
  induction cs with
  | nil => unfold insertCell; split <;> simp [lookupCell, *]
  | cons c cs ih =>
    obtain ⟨k, w⟩ := c
    rw [List.pairwise_cons] at hs
    unfold insertCell
    split
    · next hlt =>
      split
      · next hv =>
        subst hv
        exact lookupCell_of_lt fun d hd => by
          rcases List.mem_cons.1 hd with rfl | hd
          · exact hlt
          · exact Nat.lt_trans hlt (hs.1 d hd)
      · simp [lookupCell]
    · split
      · next heq =>
        subst heq
        split
        · next hv => subst hv; exact lookupCell_of_lt hs.1
        · simp [lookupCell]
      · next hne => simp only [lookupCell, if_neg (Ne.symm hne), ih hs.2]

theorem mem_insertCell {cs : List Host.Cell} {a : Nat} {v : Byte} {c : Host.Cell}
    (h : c ∈ insertCell cs a v) : c ∈ cs ∨ c = (a, v) ∧ v ≠ Config.unlistedByte := by
  induction cs with
  | nil => unfold insertCell at h; split at h <;> simp_all
  | cons d cs ih =>
    obtain ⟨k, w⟩ := d
    unfold insertCell at h
    split at h
    · split at h
      · exact .inl h
      · rcases List.mem_cons.1 h with h | h
        · exact .inr ⟨h, ‹_›⟩
        · exact .inl h
    · split at h
      · split at h
        · exact .inl (List.mem_cons_of_mem _ h)
        · rcases List.mem_cons.1 h with h | h
          · exact .inr ⟨h, ‹_›⟩
          · exact .inl (List.mem_cons_of_mem _ h)
      · rcases List.mem_cons.1 h with h | h
        · exact .inl (h ▸ List.mem_cons_self)
        · exact (ih h).imp_left (List.mem_cons_of_mem _)

theorem insertCell_sorted (cs : List Host.Cell) (a : Nat) (v : Byte)
    (hs : cs.Pairwise fun c d => c.1 < d.1) :
    (insertCell cs a v).Pairwise fun c d => c.1 < d.1 := by
  induction cs with
  | nil => unfold insertCell; split <;> simp
  | cons c cs ih =>
    obtain ⟨k, w⟩ := c
    have hs' := List.pairwise_cons.1 hs
    unfold insertCell
    split
    · next hlt =>
      split
      · exact hs
      · refine List.pairwise_cons.2 ⟨fun d hd => ?_, hs⟩
        rcases List.mem_cons.1 hd with rfl | hd
        · exact hlt
        · exact Nat.lt_trans hlt (hs'.1 d hd)
    · split
      · next heq =>
        split
        · exact hs'.2
        · exact List.pairwise_cons.2 ⟨fun d hd => heq ▸ hs'.1 d hd, hs'.2⟩
      · next hge hne =>
        refine List.pairwise_cons.2 ⟨fun d hd => ?_, ih hs'.2⟩
        rcases mem_insertCell hd with hd | ⟨rfl, -⟩
        · exact hs'.1 d hd
        · show k < a; omega

/-! ## One byte -/

@[simp] theorem writeByte_base (m : Memory) (a : Nat) (b : Byte) : (m.writeByte a b).base = m.base := by
  unfold Memory.writeByte; split <;> rfl
@[simp] theorem writeByte_size (m : Memory) (a : Nat) (b : Byte) : (m.writeByte a b).size = m.size := by
  unfold Memory.writeByte; split <;> rfl

/-- The range check depends on the range alone. -/
theorem inRange_iff (m : Memory) (a n : Nat) :
    m.inRange a n = true ↔ m.base ≤ a ∧ a + n ≤ m.base + m.size := by
  simp [Memory.inRange]

theorem inRange_congr {m m' : Memory} (hb : m'.base = m.base) (hs : m'.size = m.size) (a n : Nat) :
    m'.inRange a n = m.inRange a n := by
  simp [Memory.inRange, hb, hs]

theorem readByte_writeByte_other (m : Memory) (a b : Nat) (v : Byte) (h : b ≠ a) :
    (m.writeByte a v).readByte b = m.readByte b := by
  unfold Memory.writeByte
  split
  · exact lookupCell_insertCell_other _ _ _ _ h
  · rfl

theorem readByte_writeByte_same (m : Memory) (a : Nat) (v : Byte) (hw : m.wf)
    (hr : m.inRange a 1 = true) : (m.writeByte a v).readByte a = v := by
  simp only [Memory.writeByte, hr, if_true, Memory.readByte]
  exact lookupCell_insertCell_same _ _ _ hw.1

theorem writeByte_wf (m : Memory) (a : Nat) (v : Byte) (hw : m.wf) : (m.writeByte a v).wf := by
  unfold Memory.writeByte
  split
  · next hr =>
    rw [inRange_iff] at hr
    refine ⟨insertCell_sorted _ _ _ hw.1, fun c hc => ?_, hw.2.2⟩
    rcases mem_insertCell hc with hc | ⟨rfl, hv⟩
    · exact hw.2.1 c hc
    · exact ⟨hv, hr.1, by show a < m.base + m.size; omega⟩
  · exact hw

/-! ## Wide accesses -/

@[simp] theorem writeLE_base (m : Memory) (a : Nat) (v : Word) (n : Nat) :
    (m.writeLE a v n).base = m.base := by
  induction n with
  | zero => rfl
  | succ n ih => simp [Memory.writeLE, ih]
@[simp] theorem writeLE_size (m : Memory) (a : Nat) (v : Word) (n : Nat) :
    (m.writeLE a v n).size = m.size := by
  induction n with
  | zero => rfl
  | succ n ih => simp [Memory.writeLE, ih]

@[simp] theorem writeLE_inRange (m : Memory) (a : Nat) (v : Word) (n b k : Nat) :
    (m.writeLE a v n).inRange b k = m.inRange b k := inRange_congr (by simp) (by simp) b k

theorem writeLE_wf (m : Memory) (a : Nat) (v : Word) (n : Nat) (hw : m.wf) : (m.writeLE a v n).wf := by
  induction n with
  | zero => exact hw
  | succ n ih => exact writeByte_wf _ _ _ ih

/-- A write leaves every byte outside its `n` alone (R44). -/
theorem readByte_writeLE_outside (m : Memory) (a : Nat) (v : Word) (n b : Nat)
    (h : b < a ∨ a + n ≤ b) : (m.writeLE a v n).readByte b = m.readByte b := by
  induction n with
  | zero => rfl
  | succ n ih =>
    rw [Memory.writeLE, readByte_writeByte_other _ _ _ _ (by omega), ih (by omega)]

/-- A write puts `v[8k+7 : 8k]` at `a + k` (R37). -/
theorem readByte_writeLE_inside (m : Memory) (a : Nat) (v : Word) (n k : Nat) (hw : m.wf)
    (hr : m.inRange a n = true) (hk : k < n) :
    (m.writeLE a v n).readByte (a + k) = v.extractLsb' (8 * k) 8 := by
  induction n with
  | zero => omega
  | succ n ih =>
    rw [inRange_iff] at hr
    rw [Memory.writeLE]
    by_cases h : k = n
    · subst h
      refine readByte_writeByte_same _ _ _ (writeLE_wf _ _ _ _ hw) ?_
      rw [writeLE_inRange, inRange_iff]; omega
    · rw [readByte_writeByte_other _ _ _ _ (by omega)]
      exact ih ((inRange_iff _ _ _).2 (by omega)) (by omega)

theorem readLE_congr {m m' : Memory} (a n : Nat)
    (h : ∀ k < n, m'.readByte (a + k) = m.readByte (a + k)) : m'.readLE a n = m.readLE a n := by
  induction n with
  | zero => rfl
  | succ n ih => simp only [Memory.readLE, ih fun k hk => h k (by omega), h n (by omega)]

theorem readLE_lt (m : Memory) (a n : Nat) : m.readLE a n < 2 ^ (8 * n) := by
  induction n with
  | zero => simp [Memory.readLE]
  | succ n ih =>
    have hb := (m.readByte (a + n)).isLt
    have hp : 2 ^ (8 * (n + 1)) = 2 ^ 8 * 2 ^ (8 * n) := by rw [← Nat.pow_add]; congr 1; omega
    rw [Memory.readLE, hp]
    have := Nat.mul_le_mul_right (2 ^ (8 * n)) (show (m.readByte (a + n)).toNat + 1 ≤ 2 ^ 8 by omega)
    rw [Nat.add_mul] at this
    omega

/-- Reading back a write of `n` bytes gives its low `n` bytes (R36, R37). -/
theorem readLE_writeLE_same (m : Memory) (a : Nat) (v : Word) (n : Nat) (hw : m.wf)
    (hr : m.inRange a n = true) : (m.writeLE a v n).readLE a n = v.toNat % 2 ^ (8 * n) := by
  have key : ∀ k ≤ n, (m.writeLE a v n).readLE a k = v.toNat % 2 ^ (8 * k) := by
    intro k
    induction k with
    | zero => intro _; simp [Memory.readLE, Nat.mod_one]
    | succ k ih =>
      intro hk
      have hp : 2 ^ (8 * (k + 1)) = 2 ^ (8 * k) * 2 ^ 8 := by rw [← Nat.pow_add]; congr 1
      rw [Memory.readLE, ih (by omega), readByte_writeLE_inside _ _ _ _ _ hw hr (by omega), hp,
        Nat.mod_mul, BitVec.extractLsb'_toNat, Nat.shiftRight_eq_div_pow, Nat.mul_comm (2 ^ (8 * k))]
  exact key n (Nat.le_refl n)

end Sys2Proof.Machine
end

