-- ==== Sys2Proof/Laws/Ops.lean ====
section
/-! SUPPORT. What the shared operations can do, said once: the checks of an access, the commitment of a
handler's effects, the two outcomes of a handler (40_dispatch_and_step.md R87 to R90), and the cases of a
step (R88). -/

namespace Sys2Proof.Machine

/-! ## Accesses -/

theorem checkAccess_misaligned (acc : Access) (a : Word) (n : Nat) (m : Memory)
    (h : a.toNat % n ≠ 0) : checkAccess acc a n m = some ⟨.alignmentFault, acc, a⟩ := by
  simp [checkAccess, h]

theorem checkAccess_outOfRange (acc : Access) (a : Word) (n : Nat) (m : Memory)
    (h : a.toNat % n = 0) (hr : m.inRange a.toNat n = false) :
    checkAccess acc a n m = some ⟨rangeKind acc, acc, a⟩ := by
  simp [checkAccess, h, hr]

theorem checkAccess_ok (acc : Access) (a : Word) (n : Nat) (m : Memory)
    (h : a.toNat % n = 0) (hr : m.inRange a.toNat n = true) : checkAccess acc a n m = none := by
  simp [checkAccess, h, hr]

/-- The three outcomes of the checks. -/
theorem checkAccess_cases (acc : Access) (a : Word) (n : Nat) (m : Memory) :
    (a.toNat % n ≠ 0 ∧ checkAccess acc a n m = some ⟨.alignmentFault, acc, a⟩) ∨
    (a.toNat % n = 0 ∧ m.inRange a.toNat n = false ∧
      checkAccess acc a n m = some ⟨rangeKind acc, acc, a⟩) ∨
    (a.toNat % n = 0 ∧ m.inRange a.toNat n = true ∧ checkAccess acc a n m = none) := by
  by_cases h : a.toNat % n = 0
  · cases hr : m.inRange a.toNat n
    · exact .inr (.inl ⟨h, rfl, checkAccess_outOfRange _ _ _ _ h hr⟩)
    · exact .inr (.inr ⟨h, rfl, checkAccess_ok _ _ _ _ h hr⟩)
  · exact .inl ⟨h, checkAccess_misaligned _ _ _ _ h⟩

theorem memRead_of_check_some {acc : Access} {a : Word} {n : Nat} {m : Memory} {r : Raise}
    (h : checkAccess acc a n m = some r) : memRead acc a n m = .error r := by
  simp [memRead, h]

theorem memRead_of_check_none {acc : Access} {a : Word} {n : Nat} {m : Memory}
    (h : checkAccess acc a n m = none) :
    memRead acc a n m = .ok (BitVec.ofNat (8 * n) (m.readLE a.toNat n)) := by
  simp [memRead, h]

/-- A fetch sees the bytes at the pc and nothing else. -/
theorem fetchWord_ok (s : State) (h : s.pc.toNat % 4 = 0) (hr : s.mem.inRange s.pc.toNat 4 = true) :
    fetchWord s = .ok (BitVec.ofNat 32 (s.mem.readLE s.pc.toNat 4)) :=
  memRead_of_check_none (checkAccess_ok _ _ _ _ h hr)

/-! ## Committing effects -/

@[simp] theorem applyStore_regcell (e : Option StoreEffect) (s : State) :
    (applyStore e s).regcell = s.regcell := by cases e <;> rfl
@[simp] theorem applyStore_pc (e : Option StoreEffect) (s : State) :
    (applyStore e s).pc = s.pc := by cases e <;> rfl
@[simp] theorem applyStore_status (e : Option StoreEffect) (s : State) :
    (applyStore e s).status = s.status := by cases e <;> rfl
@[simp] theorem readReg_applyStore (e : Option StoreEffect) (s : State) (r : Reg) :
    readReg (applyStore e s) r = readReg s r := by cases e <;> rfl

@[simp] theorem applyReg_pc (w : Option (Reg × Word)) (s : State) : (applyReg w s).pc = s.pc := by
  rcases w with _ | ⟨_, _⟩ <;> simp [applyReg]
@[simp] theorem applyReg_status (w : Option (Reg × Word)) (s : State) :
    (applyReg w s).status = s.status := by
  rcases w with _ | ⟨_, _⟩ <;> simp [applyReg]
@[simp] theorem applyReg_mem (w : Option (Reg × Word)) (s : State) : (applyReg w s).mem = s.mem := by
  rcases w with _ | ⟨_, _⟩ <;> simp [applyReg]

@[simp] theorem commit_pc (e : Effects) (s : State) : (commit e s).pc = nextPc s.pc e.advance := rfl
@[simp] theorem commit_status (e : Effects) (s : State) : (commit e s).status = s.status := by
  simp [commit]

/-- What a commit does to memory: the store, if there is one. -/
theorem commit_mem (e : Effects) (s : State) :
    (commit e s).mem =
      match e.store with
      | none => s.mem
      | some st => s.mem.writeLE st.addr.toNat st.value st.bytes := by
  obtain ⟨r, st, a⟩ := e
  cases st <;> simp [commit, applyStore]

/-- What a commit does to the register file: the one write, if there is one. -/
theorem readReg_commit (e : Effects) (s : State) (r : Reg) :
    readReg (commit e s) r =
      match e.reg with
      | none => readReg s r
      | some (rd, v) => if r = rd then (if rd = 0 then 0 else v) else readReg s r := by
  obtain ⟨w, st, a⟩ := e
  rcases w with _ | ⟨rd, v⟩
  · simp [commit, applyReg]
  · by_cases h : r = rd
    · subst h; simp [commit, applyReg]
    · simp [commit, applyReg, h, readReg_writeReg_other _ _ _ _ h]

theorem commit_mem_range (e : Effects) (s : State) :
    (commit e s).mem.base = s.mem.base ∧ (commit e s).mem.size = s.mem.size := by
  rw [commit_mem]; cases e.store <;> simp

/-- Committing effects keeps memory well formed. -/
theorem commit_mem_wf (e : Effects) (s : State) (h : s.mem.wf) : (commit e s).mem.wf := by
  rw [commit_mem]
  cases e.store with
  | none => exact h
  | some st => exact writeLE_wf _ _ _ _ h

/-! ## The two outcomes of a handler -/

@[simp] theorem complete_ok (s : State) (e : Effects) : complete s (.ok e) = .next (commit e s) := rfl
@[simp] theorem complete_error (s : State) (r : Raise) :
    complete s (.error r) = .next (takeException r s) := rfl

/-- A handler's outcome is always a next state: all its effects, or its exception alone (R90). -/
theorem complete_cases {s t : State} {h : HandlerResult} (hc : complete s h = .next t) :
    (∃ e, h = .ok e ∧ t = commit e s) ∨ (∃ r, h = .error r ∧ t = takeException r s) := by
  cases h with
  | ok e => exact .inl ⟨e, rfl, by simpa using hc.symm⟩
  | error r => exact .inr ⟨r, rfl, by simpa using hc.symm⟩

/-- Every instruction ends as a handler does: all its effects, or its exception alone. -/
theorem exec_eq_complete (i : Instr) (s : State) : ∃ h : HandlerResult, exec i s = complete s h := by
  cases i <;> simp only [exec,
    execAddi, execSlti, execSltiu, execXori, execOri, execAndi, execSlli, execSrli, execSrai,
    execAddiw, execSlliw, execSrliw, execSraiw, execLui, execAuipc, execAdd, execSub, execSll,
    execSlt, execSltu, execXor, execSrl, execSra, execOr, execAnd, execAddw, execSubw, execSllw,
    execSrlw, execSraw, execJal, execJalr, execBeq, execBne, execBlt, execBge, execBltu,
    execBgeu, execLb, execLh, execLw, execLd, execLbu, execLhu, execLwu, execSb, execSh, execSw,
    execSd, execFence, execFenceI, execEcall, execEbreak, execCsrrw, execCsrrs, execCsrrc,
    execCsrrwi, execCsrrsi, execCsrrci, execMiscMemOther, execSystemOther] <;>
    exact ⟨_, rfl⟩

/-- Every instruction gives a next state. -/
theorem exec_answers (i : Instr) (s : State) : ∃ t, exec i s = .next t := by
  obtain ⟨h, e⟩ := exec_eq_complete i s
  cases h with
  | ok eff => exact ⟨commit eff s, e⟩
  | error r => exact ⟨takeException r s, e⟩

/-! ## The cases of a step -/

theorem step_trapped {s : State} {e : Exception} (h : s.status = .trapped e) : step s = .next s := by
  simp [step, h]

theorem step_fetch_fails {s : State} {r : Raise} (h : s.status = .runnable)
    (hf : fetchWord s = .error r) : step s = .next (takeException r s) := by
  simp [step, h, hf]

theorem step_fetched {s : State} {w : Word32} (h : s.status = .runnable)
    (hf : fetchWord s = .ok w) : step s = dispatchWord w s := by
  simp [step, h, hf]

theorem dispatchWord_illegal {w : Word32} {r : DecodeReject} (s : State)
    (h : decodeWord w = .error r) :
    dispatchWord w s = .next (takeException (illegalInstruction w) s) := by
  unfold decodeWord at h
  unfold dispatchWord
  cases hc : classify w <;> simp_all [dispatch]

theorem dispatchWord_instr {w : Word32} {i : Instr} (s : State) (h : decodeWord w = .ok i) :
    dispatchWord w s = exec i s := by
  unfold decodeWord at h
  unfold dispatchWord
  cases hc : classify w <;> simp_all [dispatch]

end Sys2Proof.Machine
end

