-- ==== Sys2Proof/Laws/PerInstr.lean ====
section
/-! SUPPORT. The per-instruction family TableMatch: the word the encoder writes for a well-formed
instruction has the fixed bits that spec/opcode_table.json gives the instruction's row, whatever its
operands. -/

namespace Sys2Proof.Laws.TableMatch

/-- The encoded instruction has its row's fixed bits. -/
def Statement (i : Instr) : Prop := i.wellFormed = true → i.tableRow.fits (encode i) = true

/-! ## The fixed bits of each format -/

theorem fixed_R (f7 : BitVec 7) (rs2 rs1 : Reg) (f3 : BitVec 3) (rd : Reg) (opc : BitVec 7) :
    encodeR f7 rs2 rs1 f3 rd opc &&& 0xFE00707F = place 32 f7 25 ||| place 32 f3 12 ||| place 32 opc 0 := by
  apply BitVec.eq_of_getLsbD_eq
  intro i hi
  interval_cases i <;> simp [encodeR]

theorem fixed_I (imm : BitVec 12) (rs1 : Reg) (f3 : BitVec 3) (rd : Reg) (opc : BitVec 7) :
    encodeI imm rs1 f3 rd opc &&& 0x0000707F = place 32 f3 12 ||| place 32 opc 0 := by
  apply BitVec.eq_of_getLsbD_eq
  intro i hi
  interval_cases i <;> simp [encodeI]

theorem fixed_Shift6 (d shamt : BitVec 6) (rs1 : Reg) (f3 : BitVec 3) (rd : Reg) (opc : BitVec 7) :
    encodeShift6 d shamt rs1 f3 rd opc &&& 0xFC00707F = place 32 d 26 ||| place 32 f3 12 ||| place 32 opc 0 := by
  apply BitVec.eq_of_getLsbD_eq
  intro i hi
  interval_cases i <;> simp [encodeShift6, encodeI]

theorem fixed_Shift5 (d : BitVec 7) (shamt : BitVec 5) (rs1 : Reg) (f3 : BitVec 3) (rd : Reg) (opc : BitVec 7) :
    encodeShift5 d shamt rs1 f3 rd opc &&& 0xFE00707F = place 32 d 25 ||| place 32 f3 12 ||| place 32 opc 0 := by
  apply BitVec.eq_of_getLsbD_eq
  intro i hi
  interval_cases i <;> simp [encodeShift5, encodeI]

theorem fixed_S (imm : BitVec 12) (rs2 rs1 : Reg) (f3 : BitVec 3) (opc : BitVec 7) :
    encodeS imm rs2 rs1 f3 opc &&& 0x0000707F = place 32 f3 12 ||| place 32 opc 0 := by
  apply BitVec.eq_of_getLsbD_eq
  intro i hi
  interval_cases i <;> simp [encodeS]

theorem fixed_B (imm : BitVec 13) (rs2 rs1 : Reg) (f3 : BitVec 3) (opc : BitVec 7) :
    encodeB imm rs2 rs1 f3 opc &&& 0x0000707F = place 32 f3 12 ||| place 32 opc 0 := by
  apply BitVec.eq_of_getLsbD_eq
  intro i hi
  interval_cases i <;> simp [encodeB]

theorem fixed_U (imm : BitVec 32) (rd : Reg) (opc : BitVec 7) :
    encodeU imm rd opc &&& 0x0000007F = place 32 opc 0 := by
  apply BitVec.eq_of_getLsbD_eq
  intro i hi
  interval_cases i <;> simp [encodeU]

theorem fixed_J (imm : BitVec 21) (rd : Reg) (opc : BitVec 7) :
    encodeJ imm rd opc &&& 0x0000007F = place 32 opc 0 := by
  apply BitVec.eq_of_getLsbD_eq
  intro i hi
  interval_cases i <;> simp [encodeJ]

/-- A word is of a row when its fixed bits are the row's pattern. -/
theorem fits_of {w : Word32} {row : TableRow} {v : Word32} (h : w &&& row.mask = v)
    (hv : v = row.pattern) : row.fits w = true := by
  simp [TableRow.fits, h, hv]

/-- The opcode is a word's low 7 bits. -/
theorem and_opcode (w : Word32) (opc : BitVec 7) (h : w.extractLsb' 0 7 = opc) :
    w &&& 0x0000007F = place 32 opc 0 := by
  subst h
  apply BitVec.eq_of_getLsbD_eq
  intro i hi
  interval_cases i <;> simp

/-! ## The instructions, in the table's order -/

theorem addi (rd rs1 : Reg) (imm : BitVec 12) : Statement (.addi rd rs1 imm) :=
  fun _ => fits_of (fixed_I _ _ _ _ _) rfl

theorem slti (rd rs1 : Reg) (imm : BitVec 12) : Statement (.slti rd rs1 imm) :=
  fun _ => fits_of (fixed_I _ _ _ _ _) rfl

theorem sltiu (rd rs1 : Reg) (imm : BitVec 12) : Statement (.sltiu rd rs1 imm) :=
  fun _ => fits_of (fixed_I _ _ _ _ _) rfl

theorem xori (rd rs1 : Reg) (imm : BitVec 12) : Statement (.xori rd rs1 imm) :=
  fun _ => fits_of (fixed_I _ _ _ _ _) rfl

theorem ori (rd rs1 : Reg) (imm : BitVec 12) : Statement (.ori rd rs1 imm) :=
  fun _ => fits_of (fixed_I _ _ _ _ _) rfl

theorem andi (rd rs1 : Reg) (imm : BitVec 12) : Statement (.andi rd rs1 imm) :=
  fun _ => fits_of (fixed_I _ _ _ _ _) rfl

theorem slli (rd rs1 : Reg) (shamt : BitVec 6) : Statement (.slli rd rs1 shamt) :=
  fun _ => fits_of (fixed_Shift6 _ _ _ _ _ _) rfl

theorem srli (rd rs1 : Reg) (shamt : BitVec 6) : Statement (.srli rd rs1 shamt) :=
  fun _ => fits_of (fixed_Shift6 _ _ _ _ _ _) rfl

theorem srai (rd rs1 : Reg) (shamt : BitVec 6) : Statement (.srai rd rs1 shamt) :=
  fun _ => fits_of (fixed_Shift6 _ _ _ _ _ _) rfl

theorem addiw (rd rs1 : Reg) (imm : BitVec 12) : Statement (.addiw rd rs1 imm) :=
  fun _ => fits_of (fixed_I _ _ _ _ _) rfl

theorem slliw (rd rs1 : Reg) (shamt : BitVec 5) : Statement (.slliw rd rs1 shamt) :=
  fun _ => fits_of (fixed_Shift5 _ _ _ _ _ _) rfl

theorem srliw (rd rs1 : Reg) (shamt : BitVec 5) : Statement (.srliw rd rs1 shamt) :=
  fun _ => fits_of (fixed_Shift5 _ _ _ _ _ _) rfl

theorem sraiw (rd rs1 : Reg) (shamt : BitVec 5) : Statement (.sraiw rd rs1 shamt) :=
  fun _ => fits_of (fixed_Shift5 _ _ _ _ _ _) rfl

theorem lui (rd : Reg) (imm : BitVec 32) : Statement (.lui rd imm) :=
  fun _ => fits_of (fixed_U _ _ _) rfl

theorem auipc (rd : Reg) (imm : BitVec 32) : Statement (.auipc rd imm) :=
  fun _ => fits_of (fixed_U _ _ _) rfl

theorem add (rd rs1 rs2 : Reg) : Statement (.add rd rs1 rs2) :=
  fun _ => fits_of (fixed_R _ _ _ _ _ _) rfl

theorem sub (rd rs1 rs2 : Reg) : Statement (.sub rd rs1 rs2) :=
  fun _ => fits_of (fixed_R _ _ _ _ _ _) rfl

theorem sll (rd rs1 rs2 : Reg) : Statement (.sll rd rs1 rs2) :=
  fun _ => fits_of (fixed_R _ _ _ _ _ _) rfl

theorem slt (rd rs1 rs2 : Reg) : Statement (.slt rd rs1 rs2) :=
  fun _ => fits_of (fixed_R _ _ _ _ _ _) rfl

theorem sltu (rd rs1 rs2 : Reg) : Statement (.sltu rd rs1 rs2) :=
  fun _ => fits_of (fixed_R _ _ _ _ _ _) rfl

theorem xor (rd rs1 rs2 : Reg) : Statement (.xor rd rs1 rs2) :=
  fun _ => fits_of (fixed_R _ _ _ _ _ _) rfl

theorem srl (rd rs1 rs2 : Reg) : Statement (.srl rd rs1 rs2) :=
  fun _ => fits_of (fixed_R _ _ _ _ _ _) rfl

theorem sra (rd rs1 rs2 : Reg) : Statement (.sra rd rs1 rs2) :=
  fun _ => fits_of (fixed_R _ _ _ _ _ _) rfl

theorem or (rd rs1 rs2 : Reg) : Statement (.or rd rs1 rs2) :=
  fun _ => fits_of (fixed_R _ _ _ _ _ _) rfl

theorem and (rd rs1 rs2 : Reg) : Statement (.and rd rs1 rs2) :=
  fun _ => fits_of (fixed_R _ _ _ _ _ _) rfl

theorem addw (rd rs1 rs2 : Reg) : Statement (.addw rd rs1 rs2) :=
  fun _ => fits_of (fixed_R _ _ _ _ _ _) rfl

theorem subw (rd rs1 rs2 : Reg) : Statement (.subw rd rs1 rs2) :=
  fun _ => fits_of (fixed_R _ _ _ _ _ _) rfl

theorem sllw (rd rs1 rs2 : Reg) : Statement (.sllw rd rs1 rs2) :=
  fun _ => fits_of (fixed_R _ _ _ _ _ _) rfl

theorem srlw (rd rs1 rs2 : Reg) : Statement (.srlw rd rs1 rs2) :=
  fun _ => fits_of (fixed_R _ _ _ _ _ _) rfl

theorem sraw (rd rs1 rs2 : Reg) : Statement (.sraw rd rs1 rs2) :=
  fun _ => fits_of (fixed_R _ _ _ _ _ _) rfl

theorem jal (rd : Reg) (imm : BitVec 21) : Statement (.jal rd imm) :=
  fun _ => fits_of (fixed_J _ _ _) rfl

theorem jalr (rd rs1 : Reg) (imm : BitVec 12) : Statement (.jalr rd rs1 imm) :=
  fun _ => fits_of (fixed_I _ _ _ _ _) rfl

theorem beq (rs1 rs2 : Reg) (imm : BitVec 13) : Statement (.beq rs1 rs2 imm) :=
  fun _ => fits_of (fixed_B _ _ _ _ _) rfl

theorem bne (rs1 rs2 : Reg) (imm : BitVec 13) : Statement (.bne rs1 rs2 imm) :=
  fun _ => fits_of (fixed_B _ _ _ _ _) rfl

theorem blt (rs1 rs2 : Reg) (imm : BitVec 13) : Statement (.blt rs1 rs2 imm) :=
  fun _ => fits_of (fixed_B _ _ _ _ _) rfl

theorem bge (rs1 rs2 : Reg) (imm : BitVec 13) : Statement (.bge rs1 rs2 imm) :=
  fun _ => fits_of (fixed_B _ _ _ _ _) rfl

theorem bltu (rs1 rs2 : Reg) (imm : BitVec 13) : Statement (.bltu rs1 rs2 imm) :=
  fun _ => fits_of (fixed_B _ _ _ _ _) rfl

theorem bgeu (rs1 rs2 : Reg) (imm : BitVec 13) : Statement (.bgeu rs1 rs2 imm) :=
  fun _ => fits_of (fixed_B _ _ _ _ _) rfl

theorem lb (rd rs1 : Reg) (imm : BitVec 12) : Statement (.lb rd rs1 imm) :=
  fun _ => fits_of (fixed_I _ _ _ _ _) rfl

theorem lh (rd rs1 : Reg) (imm : BitVec 12) : Statement (.lh rd rs1 imm) :=
  fun _ => fits_of (fixed_I _ _ _ _ _) rfl

theorem lw (rd rs1 : Reg) (imm : BitVec 12) : Statement (.lw rd rs1 imm) :=
  fun _ => fits_of (fixed_I _ _ _ _ _) rfl

theorem ld (rd rs1 : Reg) (imm : BitVec 12) : Statement (.ld rd rs1 imm) :=
  fun _ => fits_of (fixed_I _ _ _ _ _) rfl

theorem lbu (rd rs1 : Reg) (imm : BitVec 12) : Statement (.lbu rd rs1 imm) :=
  fun _ => fits_of (fixed_I _ _ _ _ _) rfl

theorem lhu (rd rs1 : Reg) (imm : BitVec 12) : Statement (.lhu rd rs1 imm) :=
  fun _ => fits_of (fixed_I _ _ _ _ _) rfl

theorem lwu (rd rs1 : Reg) (imm : BitVec 12) : Statement (.lwu rd rs1 imm) :=
  fun _ => fits_of (fixed_I _ _ _ _ _) rfl

theorem sb (rs2 rs1 : Reg) (imm : BitVec 12) : Statement (.sb rs2 rs1 imm) :=
  fun _ => fits_of (fixed_S _ _ _ _ _) rfl

theorem sh (rs2 rs1 : Reg) (imm : BitVec 12) : Statement (.sh rs2 rs1 imm) :=
  fun _ => fits_of (fixed_S _ _ _ _ _) rfl

theorem sw (rs2 rs1 : Reg) (imm : BitVec 12) : Statement (.sw rs2 rs1 imm) :=
  fun _ => fits_of (fixed_S _ _ _ _ _) rfl

theorem sd (rs2 rs1 : Reg) (imm : BitVec 12) : Statement (.sd rs2 rs1 imm) :=
  fun _ => fits_of (fixed_S _ _ _ _ _) rfl

theorem fence (fm pred succ : BitVec 4) (rs1 rd : Reg) : Statement (.fence fm pred succ rs1 rd) :=
  fun _ => fits_of (fixed_I _ _ _ _ _) rfl

theorem fenceI (rd rs1 : Reg) (imm : BitVec 12) : Statement (.fenceI rd rs1 imm) :=
  fun _ => fits_of (fixed_I _ _ _ _ _) rfl

theorem ecall : Statement .ecall :=
  fun _ => by decide

theorem ebreak : Statement .ebreak :=
  fun _ => by decide

theorem csrrw (rd rs1 : Reg) (csr : BitVec 12) : Statement (.csrrw rd rs1 csr) :=
  fun _ => fits_of (fixed_I _ _ _ _ _) rfl

theorem csrrs (rd rs1 : Reg) (csr : BitVec 12) : Statement (.csrrs rd rs1 csr) :=
  fun _ => fits_of (fixed_I _ _ _ _ _) rfl

theorem csrrc (rd rs1 : Reg) (csr : BitVec 12) : Statement (.csrrc rd rs1 csr) :=
  fun _ => fits_of (fixed_I _ _ _ _ _) rfl

theorem csrrwi (rd : Reg) (uimm : BitVec 5) (csr : BitVec 12) : Statement (.csrrwi rd uimm csr) :=
  fun _ => fits_of (fixed_I _ _ _ _ _) rfl

theorem csrrsi (rd : Reg) (uimm : BitVec 5) (csr : BitVec 12) : Statement (.csrrsi rd uimm csr) :=
  fun _ => fits_of (fixed_I _ _ _ _ _) rfl

theorem csrrci (rd : Reg) (uimm : BitVec 5) (csr : BitVec 12) : Statement (.csrrci rd uimm csr) :=
  fun _ => fits_of (fixed_I _ _ _ _ _) rfl

theorem miscMemOther (w : Word32) : Statement (.miscMemOther w) :=
  fun h => by
  have h0 : w.extractLsb' 0 7 = opcMiscMem := by
    simp only [Instr.wellFormed, otherMiscMem, Bool.and_eq_true, beq_iff_eq] at h
    exact h.1.1
  exact fits_of (and_opcode w _ h0) rfl

theorem systemOther (w : Word32) : Statement (.systemOther w) :=
  fun h => by
  have h0 : w.extractLsb' 0 7 = opcSystem := by
    simp only [Instr.wellFormed, otherSystem, Bool.and_eq_true, beq_iff_eq] at h
    exact h.1
  exact fits_of (and_opcode w _ h0) rfl

end Sys2Proof.Laws.TableMatch
end

