-- ==== Sys2Proof/Tests/Slice0.lean ====
section
/-! SUPPORT. The model's own tests. Words, start values and expected results are those of
spec/95_test_vectors.md (the row is named in each test) or written out from the encoding of a rule; each
runs one step. The witnesses at the end meet the hypotheses of each statement of Obligations.lean. -/

set_option maxRecDepth 8000

namespace Sys2Proof.Tests

open Sys2Proof Sys2Proof.Machine Sys2Proof.Claims

/-! ## Well-formedness: an ill-formed term for each check -/

theorem test_wf_branch_offset_odd : (Instr.beq 5 6 0x0001).wellFormed = false := by decide
theorem test_wf_jal_offset_odd : (Instr.jal 1 0x00003).wellFormed = false := by decide
theorem test_wf_upper_low_bits : (Instr.lui 5 0x12345800).wellFormed = false := by decide
theorem test_wf_miscMem_is_a_fence : (Instr.miscMemOther 0x0000100F).wellFormed = false := by decide
theorem test_wf_miscMem_foreign_opcode : (Instr.miscMemOther 0x00004073).wellFormed = false := by decide
theorem test_wf_system_is_an_ebreak : (Instr.systemOther 0x00100073).wellFormed = false := by decide
theorem test_wf_system_is_a_csrrw : (Instr.systemOther 0x300312F3).wellFormed = false := by decide
theorem test_wf_system_foreign_opcode : (Instr.systemOther 0x00004013).wellFormed = false := by decide
theorem test_wf_accepts : (Instr.beq 5 6 (-4096)).wellFormed = true ∧
    (Instr.jal 1 1048574).wellFormed = true ∧ (Instr.lui 5 0x80000000).wellFormed = true ∧
    (Instr.miscMemOther 0x0000400F).wellFormed = true ∧
    (Instr.systemOther 0x30200073).wellFormed = true := by decide

/-! ## Decoding: one word a constructor -/

/-- A word of the opcode table's length decodes to this. -/
abbrev Decodes (w : Nat) (i : Instr) : Prop := decodeTableWord 32 w = some i

/-! Written out bit by bit, the fields from bit 31 down, from R53 to R60 and R95, R103, R107, R108, R112,
R122, R128 to R131, R141, R148, R151, R157. -/

theorem test_bits_I_addi : Decodes 0b111111111110_00110_000_00101_0010011 (.addi 5 6 (-2)) := by decide
theorem test_bits_shift6_srai : Decodes 0b010000_101010_00110_101_00101_0010011 (.srai 5 6 42) := by decide
theorem test_bits_shift5_sraiw : Decodes 0b0100000_10101_00110_101_00101_0011011 (.sraiw 5 6 21) := by decide
theorem test_bits_U_lui : Decodes 0b10000000000000000001_00101_0110111 (.lui 5 0x80001000) := by decide
theorem test_bits_R_sub : Decodes 0b0100000_00111_00110_000_00101_0110011 (.sub 5 6 7) := by decide
theorem test_bits_R_subw : Decodes 0b0100000_00111_00110_000_00101_0111011 (.subw 5 6 7) := by decide
theorem test_bits_J_jal : Decodes 0b1_0000000001_0_00000010_00001_1101111 (.jal 1 (-1040382)) := by decide
theorem test_bits_J_jal_bit11 : Decodes 0b0_0000000000_1_00000000_00001_1101111 (.jal 1 2048) := by decide
theorem test_bits_I_jalr : Decodes 0b100000000001_00101_000_00001_1100111 (.jalr 1 5 (-2047)) := by decide
theorem test_bits_B_bne : Decodes 0b1_000001_00110_00101_001_0010_0_1100011 (.bne 5 6 (-4060)) := by decide
theorem test_bits_B_bne_bit11 : Decodes 0b0_000000_00110_00101_001_0000_1_1100011 (.bne 5 6 2048) := by decide
theorem test_bits_I_ld : Decodes 0b011111111111_00110_011_00101_0000011 (.ld 5 6 2047) := by decide
theorem test_bits_S_sd : Decodes 0b1000001_00111_00110_011_00011_0100011 (.sd 7 6 (-2013)) := by decide
theorem test_bits_fence : Decodes 0b1000_0011_0101_00110_000_00101_0001111 (.fence 8 3 5 6 5) := by decide
theorem test_bits_csrrc : Decodes 0b001100000101_00110_011_00101_1110011 (.csrrc 5 6 0x305) := by decide

/-! Words of spec/95_test_vectors.md, with the operands its assembly column names. -/

theorem test_decode_addi_A1 : Decodes 0xFFF30293 (.addi 5 6 (-1)) := by decide
theorem test_decode_slti_A7 : Decodes 0xFFF32293 (.slti 5 6 (-1)) := by decide
theorem test_decode_sltiu_A10 : Decodes 0x00133293 (.sltiu 5 6 1) := by decide
theorem test_decode_xori_A11 : Decodes 0xFFF34293 (.xori 5 6 (-1)) := by decide
theorem test_decode_ori_A13 : Decodes 0xF0036293 (.ori 5 6 (-256)) := by decide
theorem test_decode_andi_A15 : Decodes 0xFF037293 (.andi 5 6 (-16)) := by decide
theorem test_decode_slli_A18 : Decodes 0x00031293 (.slli 5 6 0) := by decide
theorem test_decode_srli_A20 : Decodes 0x03F35293 (.srli 5 6 63) := by decide
theorem test_decode_srai_A22 : Decodes 0x43F35293 (.srai 5 6 63) := by decide
theorem test_decode_addiw_A25 : Decodes 0x0003029B (.addiw 5 6 0) := by decide
theorem test_decode_slliw_A27 : Decodes 0x01F3129B (.slliw 5 6 31) := by decide
theorem test_decode_srliw_A29 : Decodes 0x0003529B (.srliw 5 6 0) := by decide
theorem test_decode_sraiw_A31 : Decodes 0x41F3529B (.sraiw 5 6 31) := by decide
theorem test_decode_lui_A34 : Decodes 0xFFFFF2B7 (.lui 5 0xfffff000) := by decide
theorem test_decode_auipc_A37 : Decodes 0x00000297 (.auipc 5 0x0) := by decide
theorem test_decode_add_B3 : Decodes 0x00630333 (.add 6 6 6) := by decide
theorem test_decode_sub_B5 : Decodes 0x407302B3 (.sub 5 6 7) := by decide
theorem test_decode_sll_B8 : Decodes 0x007312B3 (.sll 5 6 7) := by decide
theorem test_decode_slt_B12 : Decodes 0x007322B3 (.slt 5 6 7) := by decide
theorem test_decode_sltu_B11 : Decodes 0x006032B3 (.sltu 5 0 6) := by decide
theorem test_decode_xor_B13 : Decodes 0x007342B3 (.xor 5 6 7) := by decide
theorem test_decode_srl_B15 : Decodes 0x007352B3 (.srl 5 6 7) := by decide
theorem test_decode_sra_B17 : Decodes 0x407352B3 (.sra 5 6 7) := by decide
theorem test_decode_or_B18 : Decodes 0x007362B3 (.or 5 6 7) := by decide
theorem test_decode_and_B19 : Decodes 0x007372B3 (.and 5 6 7) := by decide
theorem test_decode_addw_B21 : Decodes 0x007302BB (.addw 5 6 7) := by decide
theorem test_decode_subw_B23 : Decodes 0x407302BB (.subw 5 6 7) := by decide
theorem test_decode_sllw_B25 : Decodes 0x007312BB (.sllw 5 6 7) := by decide
theorem test_decode_srlw_B27 : Decodes 0x007352BB (.srlw 5 6 7) := by decide
theorem test_decode_sraw_B29 : Decodes 0x407352BB (.sraw 5 6 7) := by decide
theorem test_decode_jal_T5 : Decodes 0xE01FF0EF (.jal 1 (-512)) := by decide
theorem test_decode_jalr_T13 : Decodes 0xFFC28067 (.jalr 0 5 (-4)) := by decide
theorem test_decode_beq_T31 : Decodes 0x00000063 (.beq 0 0 0) := by decide
theorem test_decode_bne_T30 : Decodes 0x00001163 (.bne 0 0 2) := by decide
theorem test_decode_blt_T19 : Decodes 0x0062C863 (.blt 5 6 16) := by decide
theorem test_decode_bge_T22 : Decodes 0x0062D863 (.bge 5 6 16) := by decide
theorem test_decode_bltu_T24 : Decodes 0x0062E863 (.bltu 5 6 16) := by decide
theorem test_decode_bgeu_T27 : Decodes 0x0062F863 (.bgeu 5 6 16) := by decide
theorem test_decode_lb_M20 : Decodes 0xFFF00283 (.lb 5 0 (-1)) := by decide
theorem test_decode_lbu_M3 : Decodes 0x00034283 (.lbu 5 6 0) := by decide
theorem test_decode_lh_M13 : Decodes 0x00131283 (.lh 5 6 1) := by decide
theorem test_decode_lhu_M6 : Decodes 0x00035283 (.lhu 5 6 0) := by decide
theorem test_decode_lw_M7 : Decodes 0x00032283 (.lw 5 6 0) := by decide
theorem test_decode_lwu_M16 : Decodes 0x00436283 (.lwu 5 6 4) := by decide
theorem test_decode_ld_M18 : Decodes 0x00033283 (.ld 5 6 0) := by decide
theorem test_decode_sb_M27 : Decodes 0xFE730FA3 (.sb 7 6 (-1)) := by decide
theorem test_decode_sh_M29 : Decodes 0x007310A3 (.sh 7 6 1) := by decide
theorem test_decode_sw_M25 : Decodes 0x00732023 (.sw 7 6 0) := by decide
theorem test_decode_sd_M26 : Decodes 0x00733023 (.sd 7 6 0) := by decide
theorem test_decode_S1 : Decodes 0x0FF0000F (.fence 0 15 15 0 0) := by decide
theorem test_decode_S4 : Decodes 0x0000100F (.fenceI 0 0 0) := by decide
theorem test_decode_S5 : Decodes 0x00000073 .ecall := by decide
theorem test_decode_S6 : Decodes 0x00100073 .ebreak := by decide
theorem test_decode_S7 : Decodes 0x300312F3 (.csrrw 5 6 0x300) := by decide
theorem test_decode_S8 : Decodes 0xC00022F3 (.csrrs 5 0 0xC00) := by decide
theorem test_decode_S11 : Decodes 0x300332F3 (.csrrc 5 6 0x300) := by decide
theorem test_decode_S12 : Decodes 0x3000D2F3 (.csrrwi 5 1 0x300) := by decide
theorem test_decode_S13 : Decodes 0x3000E2F3 (.csrrsi 5 1 0x300) := by decide
theorem test_decode_S14 : Decodes 0x3000F2F3 (.csrrci 5 1 0x300) := by decide
theorem test_decode_S19 : Decodes 0x0000400F (.miscMemOther 0x0000400F) := by decide
theorem test_decode_S17 : Decodes 0x10500073 (.systemOther 0x10500073) := by decide
/-- S21 sits in the rows of R161; its funct3 is 111, so by R160 it is CSRRCI. Both are inert (R150). -/
theorem test_decode_S21 : Decodes 0xFFFFFFF3 (.csrrci 31 31 0xFFF) := by decide

/-- K1 to K23 of section 2.2 and E5: the words that name no operation. -/
theorem test_rejected : ([0x00000000, 0xFFFFFFFF, 0x00000001, 0x0000000B,
    0x0000002F, 0x00000007, 0x00000057, 0x00007003,
    0x00004023, 0x00002063, 0x00003063, 0x00001067, 0x0000201B, 0x0000203B, 0x0000403B, 0x027302B3,
    0x407312B3, 0x807302B3, 0x407312BB, 0x04031293, 0x80035293, 0x0203129B, 0x4203529B,
    0x0000007F] : List Nat).all
    (fun w => (decodeTableWord 32 w).isNone) = true := by decide

/-- K12 and K20: the two ways a word names no operation (R76, R84). -/
theorem test_reject_reasons : decodeWord 0x00001067 = .error .illegalEncoding ∧
    decodeWord 0x04031293 = .error .unassignedSelector := by decide

/-- One instruction of each named row of the table. -/
def namedInstructions : List Instr :=
  ([Instr.addi 0 0 0, Instr.slti 0 0 0, Instr.sltiu 0 0 0, Instr.xori 0 0 0, Instr.ori 0 0 0, Instr.andi 0 0 0] ++
   [Instr.slli 0 0 0, Instr.srli 0 0 0, Instr.srai 0 0 0, Instr.addiw 0 0 0, Instr.slliw 0 0 0, Instr.srliw 0 0 0] ++
   [Instr.sraiw 0 0 0, Instr.lui 0 0, Instr.auipc 0 0, Instr.add 0 0 0, Instr.sub 0 0 0, Instr.sll 0 0 0] ++
   [Instr.slt 0 0 0, Instr.sltu 0 0 0, Instr.xor 0 0 0, Instr.srl 0 0 0, Instr.sra 0 0 0, Instr.or 0 0 0] ++
   [Instr.and 0 0 0, Instr.addw 0 0 0, Instr.subw 0 0 0, Instr.sllw 0 0 0, Instr.srlw 0 0 0, Instr.sraw 0 0 0] ++
   [Instr.jal 0 0, Instr.jalr 0 0 0, Instr.beq 0 0 0, Instr.bne 0 0 0, Instr.blt 0 0 0, Instr.bge 0 0 0] ++
   [Instr.bltu 0 0 0, Instr.bgeu 0 0 0, Instr.lb 0 0 0, Instr.lh 0 0 0, Instr.lw 0 0 0, Instr.ld 0 0 0] ++
   [Instr.lbu 0 0 0, Instr.lhu 0 0 0, Instr.lwu 0 0 0, Instr.sb 0 0 0, Instr.sh 0 0 0, Instr.sw 0 0 0] ++
   [Instr.sd 0 0 0, Instr.fence 0 0 0 0 0, Instr.fenceI 0 0 0, Instr.ecall, Instr.ebreak, Instr.csrrw 0 0 0] ++
   [Instr.csrrs 0 0 0, Instr.csrrc 0 0 0, Instr.csrrwi 0 0 0, Instr.csrrsi 0 0 0, Instr.csrrci 0 0 0])

/-- No reserved word falls to a neighbour: the fixed bits of two named rows differ. -/
theorem test_table_rows_disjoint :
    (namedInstructions.map Instr.tableRow).Pairwise (fun p q => (p.pattern ^^^ q.pattern) &&& p.mask &&& q.mask ≠ 0) := by decide

/-! ## One step on a small machine -/

/-- 4 KiB at address 0 (section 2's conventions), these registers, these cells. -/
def machine (pc : Word) (regs : List (Reg × Word)) (cells : List Host.Cell := []) : State :=
  State.construct (regs.foldl (fun f p => f.set p.1 p.2) (Vector.replicate 32 0)) pc
    { base := 0, size := 0x1000, cells := cells }

/-- One step with this word where the machine fetches. -/
def runs (s : State) (w : Nat) : StepOutcome := step (s.withFetchWord 32 w)

/-- The step succeeded, with this value in this register and this pc. -/
def gives (o : StepOutcome) (r : Reg) (v pc : Word) : Bool :=
  match o with
  | .next t => t.status == .runnable && readReg t r == v && t.pc == pc
  | .refused _ => false

/-- The step succeeded, with these bytes from this address up and this pc. -/
def stores (o : StepOutcome) (a : Nat) (bs : List Byte) (pc : Word) : Bool :=
  match o with
  | .next t => t.status == .runnable && t.pc == pc &&
    (List.range bs.length).map (fun k => t.mem.readByte (a + k)) == bs
  | .refused _ => false

/-- The step took this exception, and registers x1 and x5, the pc and memory are as before. -/
def traps (s : State) (w : Nat) (k : ExceptionKind) (acc : Access) (addr : Word) : Bool :=
  match runs s w with
  | .next t => t.status == .trapped ⟨k, s.pc, acc, addr⟩ && t.pc == s.pc &&
    readReg t 1 == readReg s 1 && readReg t 5 == readReg s 5 && t.mem == (s.withFetchWord 32 w).mem
  | .refused _ => false

/-- The memory preset of section 2.6's load rows. -/
def preset : List Host.Cell :=
  [(0x200, 0x80), (0x201, 0xFF), (0x202, 0x34), (0x203, 0x12), (0x204, 0x78), (0x205, 0x56),
   (0x206, 0x34), (0x207, 0x92)]

/-- A1: `addi x5, x6, -1`; rule R95. -/
theorem test_step_addi_A1 :
    gives (runs (machine 0x100 [(6, 0x8000000000000001)]) 0xFFF30293) 5 0x8000000000000000 0x104
      = true := by decide
/-- A5: `addi x0, x6, 5`; rules R95 and R18. -/
theorem test_step_addi_A5 :
    gives (runs (machine 0x100 [(6, 0x0000000000000001)]) 0x00530013) 0 0 0x104 = true := by decide
/-- A6: `slti x5, x6, -1`; rule R96 (signed). -/
theorem test_step_slti_A6 :
    gives (runs (machine 0x100 [(6, 0x8000000000000001)]) 0xFFF32293) 5 0x0000000000000001 0x104
      = true := by decide
/-- A8: `sltiu x5, x6, -1`; rule R97 (imm −1 is 2^64 − 1 unsigned). -/
theorem test_step_sltiu_A8 :
    gives (runs (machine 0x100 [(6, 0x8000000000000001)]) 0xFFF33293) 5 0x0000000000000001 0x104
      = true := by decide
/-- A11: `xori x5, x6, -1`; rule R98 (`not`). -/
theorem test_step_xori_A11 :
    gives (runs (machine 0x100 [(6, 0x8000000000000001)]) 0xFFF34293) 5 0x7FFFFFFFFFFFFFFE 0x104
      = true := by decide
/-- A13: `ori x5, x6, -256`; rule R99 (imm sign-extended). -/
theorem test_step_ori_A13 :
    gives (runs (machine 0x100 [(6, 0x0000000000000001)]) 0xF0036293) 5 0xFFFFFFFFFFFFFF01 0x104
      = true := by decide
/-- A15: `andi x5, x6, -16`; rule R100. -/
theorem test_step_andi_A15 :
    gives (runs (machine 0x100 [(6, 0x123456789ABCDEFF)]) 0xFF037293) 5 0x123456789ABCDEF0 0x104
      = true := by decide
/-- A18: `slli x5, x6, 0`; rule R101 (shamt 0). -/
theorem test_step_slli_A18 :
    gives (runs (machine 0x100 [(6, 0x8000000000000001)]) 0x00031293) 5 0x8000000000000001 0x104
      = true := by decide
/-- A20: `srli x5, x6, 63`; rule R102. -/
theorem test_step_srli_A20 :
    gives (runs (machine 0x100 [(6, 0x8000000000000001)]) 0x03F35293) 5 0x0000000000000001 0x104
      = true := by decide
/-- A22: `srai x5, x6, 63`; rule R103 (positive). -/
theorem test_step_srai_A22 :
    gives (runs (machine 0x100 [(6, 0x7FFFFFFFFFFFFFFF)]) 0x43F35293) 5 0x0000000000000000 0x104
      = true := by decide
/-- A25: `addiw x5, x6, 0`; rule R104 (upper bits ignored). -/
theorem test_step_addiw_A25 :
    gives (runs (machine 0x100 [(6, 0x123456787FFFFFFF)]) 0x0003029B) 5 0x000000007FFFFFFF 0x104
      = true := by decide
/-- A27: `slliw x5, x6, 31`; rule R105. -/
theorem test_step_slliw_A27 :
    gives (runs (machine 0x100 [(6, 0x0000000000000001)]) 0x01F3129B) 5 0xFFFFFFFF80000000 0x104
      = true := by decide
/-- A29: `srliw x5, x6, 0`; rule R106 (shamt 0 still sign-extends bit 31). -/
theorem test_step_srliw_A29 :
    gives (runs (machine 0x100 [(6, 0x0000000080000000)]) 0x0003529B) 5 0xFFFFFFFF80000000 0x104
      = true := by decide
/-- A30: `sraiw x5, x6, 4`; rule R107. -/
theorem test_step_sraiw_A30 :
    gives (runs (machine 0x100 [(6, 0x0000000080000000)]) 0x4043529B) 5 0xFFFFFFFFF8000000 0x104
      = true := by decide
/-- A33: `lui x5, 0x80000`; rule R108 (sign-extended). -/
theorem test_step_lui_A33 :
    gives (runs (machine 0x100 []) 0x800002B7) 5 0xFFFFFFFF80000000 0x104 = true := by decide
/-- A36: `auipc x5, 0x80000`; rule R109. -/
theorem test_step_auipc_A36 :
    gives (runs (machine 0x100 []) 0x80000297) 5 0xFFFFFFFF80000100 0x104 = true := by decide
/-- B2: `add x5, x6, x7`; rule R111 (overflow wraps). -/
theorem test_step_add_B2 :
    gives (runs (machine 0x100 [(6, 0x7FFFFFFFFFFFFFFF), (7, 0x0000000000000001)])
      0x007302B3) 5 0x8000000000000000 0x104
      = true := by decide
/-- B3: `add x6, x6, x6`; rules R111 and R86. -/
theorem test_step_add_B3 :
    gives (runs (machine 0x100 [(6, 0x4000000000000000)]) 0x00630333) 6 0x8000000000000000 0x104
      = true := by decide
/-- B5: `sub x5, x6, x7`; rule R112. -/
theorem test_step_sub_B5 :
    gives (runs (machine 0x100 [(6, 0x8000000000000000), (7, 0x0000000000000001)])
      0x407302B3) 5 0x7FFFFFFFFFFFFFFF 0x104
      = true := by decide
/-- B7: `sll x5, x6, x7`; rule R113 (amount masked to 6 bits: 1). -/
theorem test_step_sll_B7 :
    gives (runs (machine 0x100 [(6, 0x0000000000000001), (7, 0x0000000000000041)])
      0x007312B3) 5 0x0000000000000002 0x104
      = true := by decide
/-- B9: `slt x5, x6, x7`; rule R114 (−1 < 1). -/
theorem test_step_slt_B9 :
    gives (runs (machine 0x100 [(6, 0xFFFFFFFFFFFFFFFF), (7, 0x0000000000000001)])
      0x007322B3) 5 0x0000000000000001 0x104
      = true := by decide
/-- B10: `sltu x5, x6, x7`; rule R115. -/
theorem test_step_sltu_B10 :
    gives (runs (machine 0x100 [(6, 0xFFFFFFFFFFFFFFFF), (7, 0x0000000000000001)])
      0x007332B3) 5 0x0000000000000000 0x104
      = true := by decide
/-- B11: `sltu x5, x0, x6`; rule R115 (`snez`). -/
theorem test_step_sltu_B11 :
    gives (runs (machine 0x100 [(6, 0x0000000000000009)]) 0x006032B3) 5 0x0000000000000001 0x104
      = true := by decide
/-- B13: `xor x5, x6, x7`; rule R116. -/
theorem test_step_xor_B13 :
    gives (runs (machine 0x100 [(6, 0xFF00FF00FF00FF00), (7, 0x0FF00FF00FF00FF0)])
      0x007342B3) 5 0xF0F0F0F0F0F0F0F0 0x104
      = true := by decide
/-- B15: `srl x5, x6, x7`; rule R117 (127 masks to 63). -/
theorem test_step_srl_B15 :
    gives (runs (machine 0x100 [(6, 0x8000000000000001), (7, 0x000000000000007F)])
      0x007352B3) 5 0x0000000000000001 0x104
      = true := by decide
/-- B16: `sra x5, x6, x7`; rule R118. -/
theorem test_step_sra_B16 :
    gives (runs (machine 0x100 [(6, 0x8000000000000001), (7, 0x0000000000000001)])
      0x407352B3) 5 0xC000000000000000 0x104
      = true := by decide
/-- B17: `sra x5, x6, x7`; rule R118 (64 masks to 0). -/
theorem test_step_sra_B17 :
    gives (runs (machine 0x100 [(6, 0x8000000000000001), (7, 0x0000000000000040)])
      0x407352B3) 5 0x8000000000000001 0x104
      = true := by decide
/-- B18: `or x5, x6, x7`; rule R119. -/
theorem test_step_or_B18 :
    gives (runs (machine 0x100 [(6, 0x00000000000000F0), (7, 0x000000000000000F)])
      0x007362B3) 5 0x00000000000000FF 0x104
      = true := by decide
/-- B19: `and x5, x6, x7`; rule R120. -/
theorem test_step_and_B19 :
    gives (runs (machine 0x100 [(6, 0x000000000000F0F0), (7, 0x000000000000FF00)])
      0x007372B3) 5 0x000000000000F000 0x104
      = true := by decide
/-- B20: `addw x5, x6, x7`; rule R121. -/
theorem test_step_addw_B20 :
    gives (runs (machine 0x100 [(6, 0x000000007FFFFFFF), (7, 0x0000000000000001)])
      0x007302BB) 5 0xFFFFFFFF80000000 0x104
      = true := by decide
/-- B22: `subw x5, x6, x7`; rule R122. -/
theorem test_step_subw_B22 :
    gives (runs (machine 0x100 [(6, 0x0000000000000000), (7, 0x0000000080000000)])
      0x407302BB) 5 0xFFFFFFFF80000000 0x104
      = true := by decide
/-- B25: `sllw x5, x6, x7`; rule R123 (amount masked to 5 bits: 1). -/
theorem test_step_sllw_B25 :
    gives (runs (machine 0x100 [(6, 0x0000000000000001), (7, 0x0000000000000021)])
      0x007312BB) 5 0x0000000000000002 0x104
      = true := by decide
/-- B27: `srlw x5, x6, x7`; rule R124 (32 masks to 0). -/
theorem test_step_srlw_B27 :
    gives (runs (machine 0x100 [(6, 0xFFFFFFFF80000000), (7, 0x0000000000000020)])
      0x007352BB) 5 0xFFFFFFFF80000000 0x104
      = true := by decide
/-- B28: `sraw x5, x6, x7`; rule R125. -/
theorem test_step_sraw_B28 :
    gives (runs (machine 0x100 [(6, 0x0000000080000000), (7, 0x0000000000000001)])
      0x407352BB) 5 0xFFFFFFFFC0000000 0x104
      = true := by decide
/-- T2: `jal x1, -16`; rule R128 (backward). -/
theorem test_step_jal_T2 :
    gives (runs (machine 0x100 []) 0xFF1FF0EF) 1 0x0000000000000104 0xF0 = true := by decide
/-- T4: `jal x1, 2`; rules R127 and R166 (misaligned target; x1 not written). -/
theorem test_step_jal_T4 :
    traps (machine 0x100 []) 0x002000EF .alignmentFault .jump 0x102 = true := by decide
/-- T10: `jalr x1, 0(x5)`; rules R127 and R166 (0x203 & ~1 = 0x202). -/
theorem test_step_jalr_T10 :
    traps (machine 0x100 [(5, 0x0000000000000203)]) 0x000280E7 .alignmentFault .jump 0x202
      = true := by decide
/-- T11: `jalr x1, 0(x1)`; rules R129 and R86 (jumps to the old x1). -/
theorem test_step_jalr_T11 :
    gives (runs (machine 0x100 [(1, 0x0000000000000300)]) 0x000080E7) 1 0x0000000000000104 0x300
      = true := by decide
/-- T14: `beq x5, x6, 16`; rule R130 (taken). -/
theorem test_step_beq_T14 :
    gives (runs (machine 0x100 [(5, 0x0000000000000003), (6, 0x0000000000000003)])
      0x00628863) 0 0 0x110
      = true := by decide
/-- T29: `beq x0, x0, 2`; rules R127 and R166 (taken, misaligned). -/
theorem test_step_beq_T29 :
    traps (machine 0x100 []) 0x00000163 .alignmentFault .branch 0x102 = true := by decide
/-- T28: `bne x5, x0, -8`; rule R131 (backward). -/
theorem test_step_bne_T28 :
    gives (runs (machine 0x100 [(5, 0x0000000000000001)]) 0xFE029CE3) 0 0 0xF8 = true := by decide
/-- T30: `bne x0, x0, 2`; rule R127 (not taken: no check). -/
theorem test_step_bne_T30 :
    gives (runs (machine 0x100 []) 0x00001163) 0 0 0x104 = true := by decide
/-- T18: `blt x5, x6, 16`; rule R132 (−1 < 1: taken). -/
theorem test_step_blt_T18 :
    gives (runs (machine 0x100 [(5, 0xFFFFFFFFFFFFFFFF), (6, 0x0000000000000001)])
      0x0062C863) 0 0 0x110
      = true := by decide
/-- T19: `blt x5, x6, 16`; rule R132 (not taken). -/
theorem test_step_blt_T19 :
    gives (runs (machine 0x100 [(5, 0x0000000000000001), (6, 0xFFFFFFFFFFFFFFFF)])
      0x0062C863) 0 0 0x104
      = true := by decide
/-- T21: `bge x5, x6, 16`; rule R133 (equal: taken). -/
theorem test_step_bge_T21 :
    gives (runs (machine 0x100 [(5, 0x0000000000000005), (6, 0x0000000000000005)])
      0x0062D863) 0 0 0x110
      = true := by decide
/-- T22: `bge x5, x6, 16`; rule R133 (not taken). -/
theorem test_step_bge_T22 :
    gives (runs (machine 0x100 [(5, 0xFFFFFFFFFFFFFFFF), (6, 0x0000000000000001)])
      0x0062D863) 0 0 0x104
      = true := by decide
/-- T23: `bltu x5, x6, 16`; rule R134 (not taken: 2^64 − 1 > 1). -/
theorem test_step_bltu_T23 :
    gives (runs (machine 0x100 [(5, 0xFFFFFFFFFFFFFFFF), (6, 0x0000000000000001)])
      0x0062E863) 0 0 0x104
      = true := by decide
/-- T24: `bltu x5, x6, 16`; rule R134 (taken). -/
theorem test_step_bltu_T24 :
    gives (runs (machine 0x100 [(5, 0x0000000000000001), (6, 0xFFFFFFFFFFFFFFFF)])
      0x0062E863) 0 0 0x110
      = true := by decide
/-- T26: `bgeu x5, x6, 16`; rule R135 (equal: taken). -/
theorem test_step_bgeu_T26 :
    gives (runs (machine 0x100 [(5, 0x0000000000000000), (6, 0x0000000000000000)])
      0x0062F863) 0 0 0x110
      = true := by decide
/-- T27: `bgeu x5, x6, 16`; rule R135 (not taken). -/
theorem test_step_bgeu_T27 :
    gives (runs (machine 0x100 [(5, 0x0000000000000000), (6, 0x0000000000000001)])
      0x0062F863) 0 0 0x104
      = true := by decide
/-- M11: `lb x5, -1(x6)`; rules R136 and R138 (negative displacement). -/
theorem test_step_lb_M11 :
    gives (runs (machine 0x100 [(6, 0x0000000000000201)] preset)
      0xFFF30283) 5 0xFFFFFFFFFFFFFF80 0x104
      = true := by decide
/-- M20: `lb x5, -1(x0)`; rules R38 and R167 (EA wraps to 2^64 − 1). -/
theorem test_step_lb_M20 :
    traps (machine 0x100 [] preset) 0xFFF00283 .memoryAccessFault .load 0xFFFFFFFFFFFFFFFF
      = true := by decide
/-- M3: `lbu x5, 0(x6)`; rule R142. -/
theorem test_step_lbu_M3 :
    gives (runs (machine 0x100 [(6, 0x0000000000000200)] preset)
      0x00034283) 5 0x0000000000000080 0x104
      = true := by decide
/-- M4: `lh x5, 0(x6)`; rule R139. -/
theorem test_step_lh_M4 :
    gives (runs (machine 0x100 [(6, 0x0000000000000200)] preset)
      0x00031283) 5 0xFFFFFFFFFFFFFF80 0x104
      = true := by decide
/-- M13: `lh x5, 1(x6)`; rules R42 and R166. -/
theorem test_step_lh_M13 :
    traps (machine 0x100 [(6, 0x0000000000000200)] preset) 0x00131283 .alignmentFault .load 0x201
      = true := by decide
/-- M6: `lhu x5, 0(x6)`; rule R143. -/
theorem test_step_lhu_M6 :
    gives (runs (machine 0x100 [(6, 0x0000000000000200)] preset)
      0x00035283) 5 0x000000000000FF80 0x104
      = true := by decide
/-- M8: `lw x5, 4(x6)`; rule R140 (bit 31 set: sign-extended). -/
theorem test_step_lw_M8 :
    gives (runs (machine 0x100 [(6, 0x0000000000000200)] preset)
      0x00432283) 5 0xFFFFFFFF92345678 0x104
      = true := by decide
/-- M21: `lw x0, 0(x6)`; rules R149 and R167 (rd = x0 still faults). -/
theorem test_step_lw_M21 :
    traps (machine 0x100 [(6, 0x0000000000001000)] preset)
      0x00032003 .memoryAccessFault .load 0x1000
      = true := by decide
/-- M9: `lwu x5, 4(x6)`; rule R144. -/
theorem test_step_lwu_M9 :
    gives (runs (machine 0x100 [(6, 0x0000000000000200)] preset)
      0x00436283) 5 0x0000000092345678 0x104
      = true := by decide
/-- M16: `lwu x5, 4(x6)`; rules R42 and R166 (0x1002 is misaligned; alignment is checked before range). -/
theorem test_step_lwu_M16 :
    traps (machine 0x100 [(6, 0x0000000000000FFE)] preset) 0x00436283 .alignmentFault .load 0x1002
      = true := by decide
/-- M10: `ld x5, 0(x6)`; rule R141. -/
theorem test_step_ld_M10 :
    gives (runs (machine 0x100 [(6, 0x0000000000000200)] preset)
      0x00033283) 5 0x923456781234FF80 0x104
      = true := by decide
/-- M18: `ld x5, 0(x6)`; rules R34 and R167. -/
theorem test_step_ld_M18 :
    traps (machine 0x100 [(6, 0x0000000000001000)] preset)
      0x00033283 .memoryAccessFault .load 0x1000
      = true := by decide
/-- M27: `sb x7, -1(x6)`; rule R145. -/
theorem test_step_sb_M27 :
    stores (runs (machine 0x100 [(6, 0x0000000000000301), (7, 0x1122334455667788)]) 0xFE730FA3) 0x300
    [0x88, 0x00] 0x104 = true := by decide
/-- M24: `sh x7, 0(x6)`; rule R146. -/
theorem test_step_sh_M24 :
    stores (runs (machine 0x100 [(6, 0x0000000000000300), (7, 0x1122334455667788)]) 0x00731023) 0x300
    [0x88, 0x77, 0x00, 0x00, 0x00, 0x00, 0x00, 0x00] 0x104 = true := by decide
/-- M29: `sh x7, 1(x6)`; rules R42 and R166. -/
theorem test_step_sh_M29 :
    traps (machine 0x100 [(6, 0x0000000000000300), (7, 0x1122334455667788)])
      0x007310A3 .alignmentFault .store 0x301
      = true := by decide
/-- M25: `sw x7, 0(x6)`; rule R147. -/
theorem test_step_sw_M25 :
    stores (runs (machine 0x100 [(6, 0x0000000000000300), (7, 0x1122334455667788)]) 0x00732023) 0x300
    [0x88, 0x77, 0x66, 0x55, 0x00, 0x00, 0x00, 0x00] 0x104 = true := by decide
/-- M32: `sw x0, 0(x6)`; rules R147 and R17 (stores zero). -/
theorem test_step_sw_M32 :
    stores (runs (machine 0x100 [(6, 0x0000000000000300)] [(0x300, 0xAA), (0x301, 0xBB), (0x302, 0xCC), (0x303, 0xDD)]) 0x00032023) 0x300
    [0x00, 0x00, 0x00, 0x00] 0x104 = true := by decide
/-- M26: `sd x7, 0(x6)`; rule R148 (little-endian). -/
theorem test_step_sd_M26 :
    stores (runs (machine 0x100 [(6, 0x0000000000000300), (7, 0x1122334455667788)]) 0x00733023) 0x300
    [0x88, 0x77, 0x66, 0x55, 0x44, 0x33, 0x22, 0x11] 0x104 = true := by decide
/-- M30: `sd x7, 0(x6)`; rules R42 and R166 (misaligned and out of range: alignment first). -/
theorem test_step_sd_M30 :
    traps (machine 0x100 [(6, 0x0000000000000FFC), (7, 0x1122334455667788)])
      0x00733023 .alignmentFault .store 0xFFC
      = true := by decide

theorem test_step_inert_S1 : gives (runs (machine 0x40 [(5, 7)]) 0x0FF0000F) 5 7 0x44
      = true := by decide
theorem test_step_inert_S4 : gives (runs (machine 0x40 [(5, 7)]) 0x0000100F) 5 7 0x44
      = true := by decide
theorem test_step_inert_S5 : gives (runs (machine 0x40 [(5, 7)]) 0x00000073) 5 7 0x44
      = true := by decide
theorem test_step_inert_S6 : gives (runs (machine 0x40 [(5, 7)]) 0x00100073) 5 7 0x44
      = true := by decide
theorem test_step_inert_S7 : gives (runs (machine 0x40 [(5, 7)]) 0x300312F3) 5 7 0x44
      = true := by decide
theorem test_step_inert_S8 : gives (runs (machine 0x40 [(5, 7)]) 0xC00022F3) 5 7 0x44
      = true := by decide
theorem test_step_inert_S11 : gives (runs (machine 0x40 [(5, 7)]) 0x300332F3) 5 7 0x44
      = true := by decide
theorem test_step_inert_S12 : gives (runs (machine 0x40 [(5, 7)]) 0x3000D2F3) 5 7 0x44
      = true := by decide
theorem test_step_inert_S13 : gives (runs (machine 0x40 [(5, 7)]) 0x3000E2F3) 5 7 0x44
      = true := by decide
theorem test_step_inert_S14 : gives (runs (machine 0x40 [(5, 7)]) 0x3000F2F3) 5 7 0x44
      = true := by decide
theorem test_step_inert_S19 : gives (runs (machine 0x40 [(5, 7)]) 0x0000400F) 5 7 0x44
      = true := by decide
theorem test_step_inert_S17 : gives (runs (machine 0x40 [(5, 7)]) 0x10500073) 5 7 0x44
      = true := by decide
theorem test_step_inert_S21 : gives (runs (machine 0x40 [(5, 7)]) 0xFFFFFFF3) 5 7 0x44
      = true := by decide

/-- K16, `mul`: IllegalInstruction, addr the word. -/
theorem test_step_unassigned_K16 :
    traps (machine 0x100 [(5, 1)]) 0x027302B3 .illegalInstruction .decode 0x27302B3
      = true := by decide
/-- E5: all ones. -/
theorem test_step_illegal_E5 :
    traps (machine 0x100 [(1, 1), (5, 0x55)]) 0xFFFFFFFF .illegalInstruction .decode 0xFFFFFFFF = true := by
  decide
/-- H3: misaligned and out of range, alignment first. -/
theorem test_step_fetch_H3 : step (machine 0x1002 []) =
    .next (trapOf (machine 0x1002 []) .alignmentFault .fetch 0x1002) := rfl
/-- H9: the range of a fetch at the top of the address space does not wrap. -/
theorem test_step_fetch_H9 : step (machine 0xFFFFFFFFFFFFFFFC []) =
    .next (trapOf (machine 0xFFFFFFFFFFFFFFFC []) .fetchFault .fetch 0xFFFFFFFFFFFFFFFC) := rfl
/-- E6: index 0 reads 0 whatever its cell holds. -/
theorem test_zero_guard_E6 : gives (runs (machine 0 [(0, 99)]) 0x000000B3) 1 0 4 = true := by decide
/-- The first instruction after reset is the one placed at its pc. -/
theorem test_first_after_reset :
    gives (step (State.reset.withFetchWord 32 0x00508093)) 1 5 4 = true := by decide
/-- Memory lists nothing after reset. -/
theorem test_reset_memory : State.reset.mem.wf ∧ State.reset.mem.cells = [] := by decide

/-! ## Witnesses: for each statement with hypotheses, a state and operands that meet them -/

/-- `addi x1, x1, 5` at 0x100. -/
def addiAt : State := machine 0x100 [] [(0x100, 0x93), (0x101, 0x80), (0x102, 0x50)]

/-- A hart that recorded an exception. -/
def trappedHart : State := trapOf (machine 0x100 [(1, 3)]) .illegalInstruction .decode 0xFFFFFFFF

theorem witness_StepRunsTheDecodedInstruction :
    addiAt.status = .runnable ∧ addiAt.pc.toNat % 4 = 0 ∧ Within addiAt addiAt.pc.toNat 4 ∧
    (0x00508093 : Word32).toNat = bytesValue addiAt addiAt.pc.toNat 4 ∧
    decodeWord 0x00508093 = .ok (.addi 1 1 5) := by unfold Within; decide

/-- The pc one byte past an aligned one; the first pc past the range and the last below it; the last word
of the range, holding 0, and a `mul`. -/
theorem witness_StepTakesTheFirstFailingCheck :
    (machine 0x101 []).status = .runnable ∧ (machine 0x101 []).pc.toNat % 4 ≠ 0 ∧
    ((machine 0x1000 []).pc.toNat % 4 = 0 ∧ ¬ Within (machine 0x1000 []) 0x1000 4) ∧
    ((machine 0xFFFFFFFFFFFFFFFC []).pc.toNat % 4 = 0 ∧
      ¬ Within (machine 0xFFFFFFFFFFFFFFFC []) 0xFFFFFFFFFFFFFFFC 4) ∧
    ((machine 0xFFC []).pc.toNat % 4 = 0 ∧ Within (machine 0xFFC []) 0xFFC 4 ∧
      (0 : Word32).toNat = bytesValue (machine 0xFFC []) 0xFFC 4) := by
  unfold Within; decide
theorem witness_StepTakesTheFirstFailingCheck_word : ∀ i, decodeWord 0 ≠ .ok i := by
  intro i h
  have : decodeWord 0 = .error .illegalEncoding := by decide
  rw [this] at h
  nomatch h

theorem witness_StepIsAllOrNothing : addiAt.status = .runnable ∧ State.reset.status = .runnable := by decide

theorem witness_TrappedHartStaysTrapped :
    trappedHart.status = .trapped ⟨.illegalInstruction, 0x100, .decode, 0xFFFFFFFF⟩ := by decide

/-- A Runnable hart, and a Trapped one. -/
theorem witness_ZeroRegisterIsNeverObservable :
    (∃ t, step addiAt = .next t ∧ t.pc = 0x104) ∧ step trappedHart = .next trappedHart :=
  ⟨⟨_, rfl, by decide⟩, rfl⟩

/-- An instruction with a destination, and a branch, which has none. -/
theorem witness_OnlyTheDestinationRegisterChanges :
    (∃ t, exec (.addi 1 1 5) addiAt = .next t ∧ readReg t 1 = 5) ∧ dest (.addi 1 1 5) ≠ some 2 ∧
    (∃ t, exec (.beq 0 0 16) addiAt = .next t ∧ t.pc = 0x110) ∧ dest (.beq 0 0 16) ≠ some 31 :=
  ⟨⟨_, rfl, by decide⟩, by decide, ⟨_, rfl, by decide⟩, by decide⟩

/-- ADD reading x6 and x7: x9 is no source; x5 is none either, and is the destination. -/
theorem witness_OnlyTheSourceRegistersAreRead :
    let s := machine 0x100 [(6, 2), (7, 3)]
    let s' := machine 0x100 [(5, 9), (6, 2), (7, 3)]
    (5 ∉ sources (.add 5 6 7)) ∧ AgreeBut 5 s s' ∧ dest (.add 5 6 7) = some 5 ∧
    s.status = .runnable ∧
    ∃ t, exec (.add 5 6 7) s = .next t ∧ t.status = .runnable ∧ readReg t 5 = 5 :=
  ⟨by decide, ⟨by decide, rfl, rfl, rfl⟩, by decide, rfl, _, rfl, rfl, by decide⟩

theorem witness_OnlyStoresChangeMemory :
    (∃ t, exec (.lui 5 0x1000) addiAt = .next t ∧ readReg t 5 = 0x1000) ∧
    isStore (.lui 5 0x1000) = false := ⟨⟨_, rfl, by decide⟩, by decide⟩

/-- A load that completes, and one out of range that takes an exception. -/
theorem witness_OnlyControlTransfersRedirect :
    isControlTransfer (.lb 5 6 0) = false ∧
    (∃ t, exec (.lb 5 6 0) (machine 0x100 [(6, 0xFFF)]) = .next t ∧ t.status = .runnable) ∧
    ∃ t, exec (.lb 5 6 0) (machine 0x100 [(6, 0x1000)]) = .next t ∧ t.status ≠ .runnable :=
  ⟨by decide, ⟨_, rfl, rfl⟩, _, rfl, by decide⟩

theorem witness_OnlyMemoryAndControlInstructionsRaise :
    isLoad (.add 0 6 7) = false ∧ isStore (.add 0 6 7) = false ∧
    isControlTransfer (.add 0 6 7) = false := by decide

/-- A word with the fixed bits of a row, for each instruction the word statements name: with
every operand bit 0, and with every operand bit 1. -/
theorem witness_DecodesWhen :
    (namedInstructions.all fun i => i.tableRow.fits (i.tableRow.pattern)) = true ∧
    (namedInstructions.all fun i => i.tableRow.fits (i.tableRow.pattern ||| ~~~ i.tableRow.mask)) = true := by
  decide

/-- The least discriminator that names no shift, and the one next to SRAI's and SRAIW's. -/
theorem witness_OpImmShiftInstructions :
    (opcodeOf 0x04031293 = 0x13 ∧ funct3Of 0x04031293 = 1 ∧
      (0x04031293 : Word32).toNat / 2 ^ 26 ≠ 0) ∧
    (opcodeOf 0x44035293 = 0x13 ∧ funct3Of 0x44035293 = 5 ∧
      (0x44035293 : Word32).toNat / 2 ^ 26 ≠ 0 ∧ (0x44035293 : Word32).toNat / 2 ^ 26 ≠ 16) := by decide
theorem witness_OpImm32Instructions :
    (opcodeOf 0x0203129B = 0x1B ∧ funct3Of 0x0203129B = 1 ∧ funct7Of 0x0203129B ≠ 0) ∧
    (opcodeOf 0x4203529B = 0x1B ∧ funct3Of 0x4203529B = 5 ∧ funct7Of 0x4203529B ≠ 0 ∧
      funct7Of 0x4203529B ≠ 32) := by decide

/-- Offsets 2 and 4, the least and the greatest of the range, from pc 0x100. -/
theorem witness_JumpAndLink :
    (ofInt ((0x100 : Nat) + (4 : BitVec 21).toInt)).toNat % 4 = 0 ∧
    (ofInt ((0x100 : Nat) + (0x100000 : BitVec 21).toInt)).toNat % 4 = 0 ∧
    (ofInt ((0x100 : Nat) + (2 : BitVec 21).toInt)).toNat % 4 ≠ 0 ∧
    (ofInt ((0x100 : Nat) + (0xFFFFE : BitVec 21).toInt)).toNat % 4 ≠ 0 ∧
    addiAt.pc.toNat % 4 = 0 ∧ addiAt.pc = 0x100 ∧ evenOffset (2 : BitVec 21) = true := by decide

/-- Sums 0x203 (bit 0 cleared: 0x202) and 0x201 (0x200), and the wrap to 4 of row T12. -/
theorem witness_JumpAndLinkRegister :
    (ofInt (((0x203 : Word).toInt + (0 : BitVec 12).toInt) / 2 * 2)).toNat % 4 ≠ 0 ∧
    (ofInt (((0x201 : Word).toInt + (0 : BitVec 12).toInt) / 2 * 2)).toNat % 4 = 0 ∧
    (ofInt (((0xFFFFFFFFFFFFFFFC : Word).toInt + (8 : BitVec 12).toInt) / 2 * 2)).toNat = 4 := by decide

/-- E3: `jalr x1, 0(x0)` with address 0 out of range. -/
theorem witness_JumpAndLinkRegister_outOfRange :
    let s := State.construct Config.initRegs 0x1000 ⟨0x1000, 0x1000, []⟩
    (ofInt (((readReg s 0).toInt + (0 : BitVec 12).toInt) / 2 * 2)).toNat = 0 ∧ s.status = .runnable ∧
    ¬ Within s 0 4 ∧ ∃ t, exec (.jalr 1 0 0) s = .next t ∧ readReg t 1 = 0x1004 :=
  ⟨by decide, rfl, by unfold Within; decide, _, rfl, by decide⟩

/-- Each decision both ways, at the sign boundary; a target that is aligned and one that is not. -/
theorem witness_ConditionalBranches :
    let a : Word := 0x7FFFFFFFFFFFFFFF
    let b : Word := 0x8000000000000000
    (a.toNat = a.toNat ∧ ¬ a.toNat = b.toNat) ∧ (a.toNat ≠ b.toNat ∧ ¬ a.toNat ≠ a.toNat) ∧
    (b.toInt < a.toInt ∧ ¬ a.toInt < b.toInt) ∧ (a.toInt ≥ a.toInt ∧ ¬ b.toInt ≥ a.toInt) ∧
    (a.toNat < b.toNat ∧ ¬ b.toNat < a.toNat) ∧ (b.toNat ≥ b.toNat ∧ ¬ a.toNat ≥ b.toNat) ∧
    (ofInt ((0x100 : Nat) + (0x1000 : BitVec 13).toInt)).toNat % 4 = 0 ∧
    (ofInt ((0x100 : Nat) + (0xFFE : BitVec 13).toInt)).toNat % 4 ≠ 0 ∧
    addiAt.pc.toNat % 4 = 0 ∧ addiAt.pc = 0x100 ∧ evenOffset (0xFFE : BitVec 13) = true := by decide

/-- Row T5: `jal x1, -512` at 0x100, whose target wraps to an address out of range. -/
theorem witness_OutOfRangeTargetFaultsOnTheNextStep :
    let s := machine 0x100 []
    s.status = .runnable ∧ isControlTransfer (.jal 1 (-512)) = true ∧
    ∃ t, exec (.jal 1 (-512)) s = .next t ∧ t.status = .runnable ∧ t.pc ≠ s.pc + 4 ∧
      ¬ Within s t.pc.toNat 4 :=
  ⟨rfl, by decide, _, rfl, rfl, by decide, by unfold Within; decide⟩

/-- For each width: the last access in range, the first past it, and (no byte access has one) the first
misaligned address of the range. The address is x6 plus 0. -/
theorem witness_Loads_and_StoreInstructions :
    ((machine 0x100 []).mem.wf ∧
    ([(1, 0xFFF), (2, 0xFFE), (4, 0xFFC), (8, 0xFF8)] : List (Nat × Nat)).all (fun p =>
      let s := machine 0x100 [(6, BitVec.ofNat 64 p.2)]
      (eaOf s 6 0).toNat % p.1 == 0 && decide (s.mem.base ≤ (eaOf s 6 0).toNat ∧
        (eaOf s 6 0).toNat + p.1 ≤ s.mem.base + s.mem.size)) = true) ∧
    ([1, 2, 4, 8].all fun n =>
      let s := machine 0x100 [(6, 0x1000)]
      (eaOf s 6 0).toNat % n == 0 && !decide (s.mem.base ≤ (eaOf s 6 0).toNat ∧
        (eaOf s 6 0).toNat + n ≤ s.mem.base + s.mem.size)) = true ∧
    ([2, 4, 8].all fun n => (eaOf (machine 0x100 [(6, 1)]) 6 0).toNat % n != 0) = true := by decide

/-- An SD to the last doubleword of the range, read back whole and at its bytes 0 and 7. -/
theorem witness_StoredDoublewordReadsBack :
    let s := machine 0x100 [(6, 0xFF8), (7, 0x1122334455667788)]
    s.mem.wf ∧ (eaOf s 6 0).toNat % 8 = 0 ∧ Within s (eaOf s 6 0).toNat 8 ∧
    ∃ t, exec (.sd 7 6 0) s = .next t ∧ eaOf t 6 0 = eaOf s 6 0 ∧
      (eaOf t 6 0).toNat = (eaOf s 6 0).toNat + 0 ∧ (eaOf t 6 7).toNat = (eaOf s 6 0).toNat + 7 :=
  ⟨by decide, by decide, by unfold Within; decide, _, rfl, by decide, by decide, by decide⟩

/-- An SW of `addi x1, x0, 1` over the next instruction. -/
theorem witness_StoredWordIsExecutedNext :
    let s := machine 0x100 [(6, 0x104), (7, 0x00100093)]
    s.status = .runnable ∧ s.mem.wf ∧ eaOf s 6 0 = s.pc + 4 ∧ (s.pc + 4).toNat % 4 = 0 ∧
    Within s (s.pc + 4).toNat 4 ∧ (∃ t, exec (.sw 7 6 0) s = .next t) ∧
    decodeWord (BitVec.ofNat 32 (readReg s 7).toNat) = .ok (.addi 1 0 1) :=
  ⟨rfl, by decide, by decide, by decide, by unfold Within; decide, ⟨_, rfl⟩, by decide⟩

theorem witness_EveryFenceOrSystemWordIsInert :
    opcodeOf 0xFFFF008F = 0x0F ∧ opcodeOf 0xFFFFFFF3 = 0x73 ∧
    (opcodeOf 0x0000200F = 0x0F ∧ funct3Of 0x0000200F ≠ 0 ∧ funct3Of 0x0000200F ≠ 1) ∧
    (opcodeOf 0x00004073 = 0x73 ∧ funct3Of 0x00004073 = 4) ∧
    (opcodeOf 0x00200073 = 0x73 ∧ funct3Of 0x00200073 = 0 ∧ (0x00200073 : Word32).toNat ≠ 0x00000073 ∧
      (0x00200073 : Word32).toNat ≠ 0x00100073) := by decide

theorem witness_UnassignedWordsAreIllegal :
    (0x00000001 : Word32).toNat % 4 ≠ 3 ∧ (0x00000002 : Word32).toNat % 4 ≠ 3 ∧
    classify 0x0000007F = .illegal ∧ classify 0x00007003 = .illegal := by decide

/-- K17, K16, K19, K20, K21, K22, K23: each clause of the hypothesis. -/
theorem witness_UnassignedSelectorsAreIllegal :
    (opcodeOf 0x407312B3 = 0x33 ∧ funct7Of 0x407312B3 = 32 ∧ funct3Of 0x407312B3 = 1) ∧
    (opcodeOf 0x027302B3 = 0x33 ∧ funct7Of 0x027302B3 = 1) ∧
    (opcodeOf 0x407312BB = 0x3B ∧ funct7Of 0x407312BB = 32 ∧ funct3Of 0x407312BB = 1) ∧
    (opcodeOf 0x04031293 = 0x13 ∧ funct3Of 0x04031293 = 1 ∧ (0x04031293 : Word32).toNat / 2 ^ 26 = 1) ∧
    (opcodeOf 0x80035293 = 0x13 ∧ funct3Of 0x80035293 = 5 ∧ (0x80035293 : Word32).toNat / 2 ^ 26 = 32) ∧
    (opcodeOf 0x0203129B = 0x1B ∧ funct3Of 0x0203129B = 1 ∧ funct7Of 0x0203129B = 1) ∧
    (opcodeOf 0x4203529B = 0x1B ∧ funct3Of 0x4203529B = 5 ∧ funct7Of 0x4203529B = 33) := by decide

/-- A B offset at each end of its range, and a catch-all row. -/
theorem witness_DecodeOfEncodeIsTheInstruction :
    (Instr.beq 31 0 (-4096)).wellFormed = true ∧ (Instr.beq 0 31 4094).wellFormed = true ∧
    (Instr.miscMemOther 0x0000200F).wellFormed = true := by decide

theorem witness_EncodeOfDecodeIsTheWord :
    decodeWord 0xFE059CE3 = .ok (.bne 11 0 (-8)) ∧ decodeWord 0xFFFFFFEF = .ok (.jal 31 (-2)) := by decide

theorem witness_DecodableWordsAreTheTables :
    decodeWord 0x7E000FA3 = .ok (.sb 0 0 2047) ∧ (Instr.sb 0 0 0).tableRow.fits 0x7E000FA3
      = true := by decide

/-- H1 and H2, and H5: a pc below the range. -/
theorem witness_UnfetchableBootFaultsOnTheFirstStep :
    (0x102 : Word).toNat % 4 ≠ 0 ∧ (0x1000 : Word).toNat % 4 = 0 ∧
    ¬ Within (State.construct Config.initRegs 0x1000 ⟨0, 0x1000, []⟩) 0x1000 4 ∧
    ¬ Within (State.construct Config.initRegs 0xFFC ⟨0x1000, 0x1000, []⟩) 0xFFC 4 := by
  unfold Within; decide

theorem witness_PlacedWordIsTheOneThatRuns :
    (machine 0xFFC []).status = .runnable ∧ (machine 0xFFC []).mem.wf ∧
    (machine 0xFFC []).pc.toNat % 4 = 0 ∧ Within (machine 0xFFC []) (machine 0xFFC []).pc.toNat 4 := by
  unfold Within; decide

/-- A Runnable state with a listed memory, a Trapped one, and a step from each. -/
theorem witness_StepKeepsTheInvariant :
    (Inv addiAt ∧ ∃ t, step addiAt = .next t) ∧ (Inv trappedHart ∧ step trappedHart = .next trappedHart) := by
  refine ⟨⟨⟨by decide, by decide, fun e h => nomatch h⟩, _, rfl⟩, ⟨by decide, by decide, fun e h => ?_⟩, rfl⟩
  cases h
  exact ⟨rfl, by decide, by decide, by decide, by decide, by decide, by decide⟩

theorem witness_BootStatesHaveTheInvariant :
    Memory.wf ⟨0x1000, 0x1000, [(0x1000, 1), (0x1FFF, 2)]⟩ ∧ (0xFFFFFFFFFFFFFFFC : Word).toNat % 4 = 0 := by
  decide

/-- H2: the first pc past the range. -/
theorem witness_AlignedBootNeverMisfetches :
    Memory.wf ⟨0, 0x1000, []⟩ ∧ (0x1000 : Word).toNat % 4 = 0 ∧
    ∃ t, stepsFrom 1 (State.construct Config.initRegs 0x1000 ⟨0, 0x1000, []⟩) = some t ∧
      t.status = .trapped ⟨.fetchFault, 0x1000, .fetch, 0x1000⟩ :=
  ⟨by decide, by decide, _, rfl, rfl⟩

end Sys2Proof.Tests
end

section
/-! PROOFS. The registers and the invariant (10_state.md R16, R17, R22; 60_exceptions.md R163 to R169).
Every instruction is one of six forms of handler; the forms are told apart once, by constructor, and each
statement about all instructions is then an argument over the six forms. -/

namespace Sys2Proof.Proofs

open Sys2Proof Sys2Proof.Machine Sys2Proof.Claims

/-! ## What an operand reads -/

/-- The two states give an instruction with the sources `rs` the same operands: those registers read the
same, and pc and memory are equal. -/
structure AgreeOn (rs : List Reg) (s s' : State) : Prop where
  regs : ∀ r ∈ rs, readReg s' r = readReg s r
  pc : s'.pc = s.pc
  mem : s'.mem = s.mem

/-- `f` depends on the registers `rs`, the pc and memory only. -/
def ReadsOnly {α : Type} (rs : List Reg) (f : State → α) : Prop :=
  ∀ s s', AgreeOn rs s s' → f s' = f s

section Operands

variable {rs : List Reg} {s s' : State} {r : Reg}

theorem AgreeOn.readWord_eq (h : AgreeOn rs s s') (hr : r ∈ rs) : readWord s' r = readWord s r := by
  rw [readWord, readWord, h.regs r hr]

theorem AgreeOn.shiftAmount6_eq (h : AgreeOn rs s s') (hr : r ∈ rs) :
    shiftAmount6 s' r = shiftAmount6 s r := by
  rw [shiftAmount6, shiftAmount6, h.regs r hr]

theorem AgreeOn.shiftAmount5_eq (h : AgreeOn rs s s') (hr : r ∈ rs) :
    shiftAmount5 s' r = shiftAmount5 s r := by
  rw [shiftAmount5, shiftAmount5, h.regs r hr]

theorem AgreeOn.effectiveAddress_eq (h : AgreeOn rs s s') (hr : r ∈ rs) (imm : BitVec 12) :
    effectiveAddress s' r imm = effectiveAddress s r imm := by
  rw [effectiveAddress, effectiveAddress, h.regs r hr]

theorem AgreeOn.jalrTarget_eq (h : AgreeOn rs s s') (hr : r ∈ rs) (imm : BitVec 12) :
    jalrTarget s' r imm = jalrTarget s r imm := by
  rw [jalrTarget, jalrTarget, h.regs r hr]

theorem AgreeOn.pcRelative_eq (h : AgreeOn rs s s') {n : Nat} (imm : BitVec n) :
    pcRelative s' imm = pcRelative s imm := by
  rw [pcRelative, pcRelative, h.pc]

theorem AgreeOn.linkAddress_eq (h : AgreeOn rs s s') : linkAddress s' = linkAddress s := by
  rw [linkAddress, linkAddress, h.pc]

end Operands

/-! ## The six forms of handler -/

/-- The handlers instruction `i` may have: which registers it names, what its operands read, and the class
of instructions it belongs to. -/
inductive HandlerForm (i : Instr) : (State → HandlerResult) → Prop where
  /-- An operation that writes a value to `rd` (R94, R110). -/
  | result {rd : Reg} {v : State → Word} (hd : dest i = some rd) (hv : ReadsOnly (sources i) v) :
      HandlerForm i fun s => writesRd rd (v s)
  /-- JAL and JALR (R126). -/
  | jumps {rd : Reg} {target : State → Word} (hc : isControlTransfer i = true) (hd : dest i = some rd)
      (ht : ReadsOnly (sources i) target) : HandlerForm i fun s => jumpTo rd (target s) s
  /-- The branches (R130 to R135). -/
  | branches {taken : State → Bool} {imm : BitVec 13} (hc : isControlTransfer i = true)
      (hd : dest i = none) (ht : ReadsOnly (sources i) taken) :
      HandlerForm i fun s => branchIf (taken s) imm s
  /-- The loads, of 1, 2, 4 or 8 bytes (R136). -/
  | loads {n : Nat} {extend : BitVec (8 * n) → Word} {rd rs1 : Reg} {imm : BitVec 12}
      (hc : isLoad i = true) (hd : dest i = some rd) (hn : n ∣ 8) (h1 : rs1 ∈ sources i) :
      HandlerForm i (load n extend rd rs1 imm)
  /-- The stores, of 1, 2, 4 or 8 bytes (R136). -/
  | stores {n : Nat} {rs2 rs1 : Reg} {imm : BitVec 12} (hc : isStore i = true) (hd : dest i = none)
      (hn : n ∣ 8) (h1 : rs1 ∈ sources i) (h2 : rs2 ∈ sources i) :
      HandlerForm i (store n rs2 rs1 imm)
  /-- The inert words (R150). -/
  | noEffect (hd : dest i = none) : HandlerForm i fun _ => inert

/-- Every instruction runs a handler of one of the six forms. -/
theorem exec_form (i : Instr) : ∃ H, HandlerForm i H ∧ ∀ s, exec i s = complete s (H s) := by
  cases i with
  | addi | slti | sltiu | xori | ori | andi | slli | srli | srai | addiw | slliw | srliw | sraiw | lui
  | auipc | add | sub | sll | slt | sltu | xor | srl | sra | or | and | addw | subw | sllw | srlw | sraw =>
    refine ⟨_, .result rfl fun s s' h => ?_, fun _ => rfl⟩
    simp only [sources] at h
    simp [h.pc, h.regs, h.readWord_eq, h.shiftAmount6_eq, h.shiftAmount5_eq]
  | jal => exact ⟨_, .jumps rfl rfl fun _ _ h => h.pcRelative_eq _, fun _ => rfl⟩
  | jalr =>
    exact ⟨_, .jumps rfl rfl fun _ _ h => h.jalrTarget_eq (by simp [sources]) _, fun _ => rfl⟩
  | beq | bne | blt | bge | bltu | bgeu =>
    refine ⟨_, .branches rfl rfl fun s s' h => ?_, fun _ => rfl⟩
    simp only [sources] at h
    simp [h.regs]
  | lb | lh | lw | ld | lbu | lhu | lwu =>
    exact ⟨_, .loads rfl rfl (by decide) (by simp [sources]), fun _ => rfl⟩
  | sb | sh | sw | sd =>
    exact ⟨_, .stores rfl rfl (by decide) (by simp [sources]) (by simp [sources]), fun _ => rfl⟩
  | fence | fenceI | ecall | ebreak | csrrw | csrrs | csrrc | csrrwi | csrrsi | csrrci | miscMemOther
  | systemOther => exact ⟨_, .noEffect rfl, fun _ => rfl⟩

/-! ## What each shared handler answers -/

theorem checkTarget_eq_none {acc : Access} {a : Word} (h : checkTarget acc a = none) :
    a.toNat % 4 = 0 := by
  by_contra ha
  simp [checkTarget, ha] at h

theorem checkTarget_eq_some {acc : Access} {a : Word} {x : Raise} (h : checkTarget acc a = some x) :
    x = ⟨.alignmentFault, acc, a⟩ ∧ a.toNat % 4 ≠ 0 := by
  unfold checkTarget at h
  split at h
  · next ha => exact ⟨(Option.some.inj h).symm, ha⟩
  · cases h

theorem jumpTo_ok {rd : Reg} {a : Word} {s : State} {e : Effects} (h : jumpTo rd a s = .ok e) :
    e = { reg := some (rd, linkAddress s), advance := .redirected a } ∧ a.toNat % 4 = 0 := by
  unfold jumpTo at h
  split at h
  · cases h
  · next hc => exact ⟨(Except.ok.inj h).symm, checkTarget_eq_none hc⟩

theorem jumpTo_error {rd : Reg} {a : Word} {s : State} {x : Raise} (h : jumpTo rd a s = .error x) :
    checkTarget .jump a = some x := by
  unfold jumpTo at h
  split at h <;> cases h
  assumption

theorem branchIf_ok {taken : Bool} {imm : BitVec 13} {s : State} {e : Effects}
    (h : branchIf taken imm s = .ok e) :
    e = {} ∨ e = { advance := .redirected (pcRelative s imm) } ∧ (pcRelative s imm).toNat % 4 = 0 := by
  unfold branchIf at h
  split at h
  · split at h
    · cases h
    · next hc => exact .inr ⟨(Except.ok.inj h).symm, checkTarget_eq_none hc⟩
  · exact .inl (Except.ok.inj h).symm

theorem branchIf_error {taken : Bool} {imm : BitVec 13} {s : State} {x : Raise}
    (h : branchIf taken imm s = .error x) : checkTarget .branch (pcRelative s imm) = some x := by
  unfold branchIf at h
  split at h
  · split at h <;> cases h
    assumption
  · cases h

theorem memRead_error {acc : Access} {a : Word} {n : Nat} {m : Memory} {x : Raise}
    (h : memRead acc a n m = .error x) : checkAccess acc a n m = some x := by
  unfold memRead at h
  split at h <;> cases h
  assumption

section LoadStore

variable {n : Nat} {extend : BitVec (8 * n) → Word} {rd rs1 rs2 : Reg} {imm : BitVec 12} {s : State}
  {e : Effects} {x : Raise}

theorem load_ok (h : load n extend rd rs1 imm s = .ok e) : ∃ v, e = { reg := some (rd, v) } := by
  unfold load at h
  split at h <;> cases h
  exact ⟨_, rfl⟩

theorem load_error (h : load n extend rd rs1 imm s = .error x) :
    checkAccess .load (effectiveAddress s rs1 imm) n s.mem = some x := by
  unfold load at h
  split at h <;> cases h
  next hm => exact memRead_error hm

theorem store_ok (h : store n rs2 rs1 imm s = .ok e) : ∃ w, e = { store := some w } := by
  unfold store at h
  split at h <;> cases h
  exact ⟨_, rfl⟩

theorem store_error (h : store n rs2 rs1 imm s = .error x) :
    checkAccess .store (effectiveAddress s rs1 imm) n s.mem = some x := by
  unfold store at h
  split at h <;> cases h
  assumption

end LoadStore

/-! ## What every form keeps to -/

section Form

variable {i : Instr} {H : State → HandlerResult} {s s' : State} {e : Effects}

/-- A handler answers the same on two states that give it the same operands. -/
theorem HandlerForm.reads_sources (hH : HandlerForm i H) (h : AgreeOn (sources i) s s') : H s' = H s := by
  cases hH with
  | result _ hv => simp only [hv s s' h]
  | jumps _ _ ht => simp only [jumpTo, ht s s' h, h.linkAddress_eq]
  | branches _ _ ht => simp only [branchIf, ht s s' h, h.pcRelative_eq]
  | loads _ _ _ h1 => simp only [load, h.effectiveAddress_eq h1, h.mem]
  | stores _ _ _ h1 h2 => simp only [store, h.effectiveAddress_eq h1, h.mem, h.regs _ h2]
  | noEffect => rfl

/-- The register a completed handler writes is the instruction's destination, and it always writes it
(R16). -/
theorem HandlerForm.writes_dest (hH : HandlerForm i H) (h : H s = .ok e) :
    e.reg.map Prod.fst = dest i := by
  cases hH with
  | result hd => cases h; exact hd.symm
  | jumps _ hd => obtain ⟨rfl, -⟩ := jumpTo_ok h; exact hd.symm
  | branches _ hd => obtain rfl | ⟨rfl, -⟩ := branchIf_ok h <;> exact hd.symm
  | loads _ hd => obtain ⟨v, rfl⟩ := load_ok h; exact hd.symm
  | stores _ hd => obtain ⟨w, rfl⟩ := store_ok h; exact hd.symm
  | noEffect hd => cases h; exact hd.symm

/-- A completed handler redirects the pc to an aligned target only (R127). -/
theorem HandlerForm.target_aligned (hH : HandlerForm i H) (h : H s = .ok e) {a : Word}
    (ha : e.advance = .redirected a) : a.toNat % 4 = 0 := by
  cases hH with
  | result => cases h; cases ha
  | jumps =>
    obtain ⟨rfl, h4⟩ := jumpTo_ok h
    cases ha
    exact h4
  | branches =>
    obtain rfl | ⟨rfl, h4⟩ := branchIf_ok h <;> cases ha
    exact h4
  | loads => obtain ⟨v, rfl⟩ := load_ok h; cases ha
  | stores => obtain ⟨w, rfl⟩ := store_ok h; cases ha
  | noEffect => cases h; cases ha

end Form

/-- Every instruction commits effects that write its destination and no other register, or takes an
exception. -/
theorem exec_cases {i : Instr} {s t : State} (h : exec i s = .next t) :
    (∃ e, e.reg.map Prod.fst = dest i ∧ t = commit e s) ∨ ∃ x, t = takeException x s := by
  obtain ⟨H, hH, hexec⟩ := exec_form i
  rw [hexec] at h
  obtain ⟨e, he, rfl⟩ | ⟨x, -, rfl⟩ := complete_cases h
  · exact .inl ⟨e, hH.writes_dest he, rfl⟩
  · exact .inr ⟨x, rfl⟩

/-- On two states that give `i` the same operands, `exec` completes one handler's result (R86). -/
theorem exec_eq_complete_both {i : Instr} {s s' : State} (h : AgreeOn (sources i) s s') :
    ∃ H, HandlerForm i H ∧ exec i s = complete s (H s) ∧ exec i s' = complete s' (H s) := by
  obtain ⟨H, hH, hexec⟩ := exec_form i
  exact ⟨H, hH, hexec s, hH.reads_sources h ▸ hexec s'⟩

/-! ## Only the destination changes (R16) -/

theorem readReg_commit_of_dest_ne {e : Effects} {r : Reg} (h : e.reg.map Prod.fst ≠ some r) (s : State) :
    readReg (commit e s) r = readReg s r := by
  rw [readReg_commit]
  rcases hreg : e.reg with _ | ⟨rd, v⟩
  · rfl
  · have hr : r ≠ rd := fun hr => h (by simp [hreg, hr])
    simp [hr]

/-- Settles O7: a commit writes the destination alone, an exception no register. -/
theorem onlyTheDestinationRegisterChanges : Obligations.OnlyTheDestinationRegisterChanges := by
  unfold Obligations.OnlyTheDestinationRegisterChanges
  intro i s t r h hr
  obtain ⟨e, hd, rfl⟩ | ⟨x, rfl⟩ := exec_cases h
  · exact readReg_commit_of_dest_ne (hd ▸ hr) s
  · exact readReg_takeException x s r

/-! ## Only the sources are read (R16) -/

section AgreeBut

variable {r : Reg} {s s' : State}

theorem commit_agreeBut (h : AgreeBut r s s') (e : Effects) :
    AgreeBut r (commit e s) (commit e s') := by
  obtain ⟨hreg, hpc, hst, hmem⟩ := h
  refine ⟨fun q hq => ?_, ?_, ?_, ?_⟩
  · rw [readReg_commit, readReg_commit, hreg q hq]
  · rw [commit_pc, commit_pc, hpc]
  · rw [commit_status, commit_status, hst]
  · rw [commit_mem, commit_mem, hmem]

theorem takeException_agreeBut (h : AgreeBut r s s') (x : Raise) :
    AgreeBut r (takeException x s) (takeException x s') := by
  obtain ⟨hreg, hpc, -, hmem⟩ := h
  exact ⟨hreg, hpc, by simp [hpc], hmem⟩

theorem AgreeOn.of_agreeBut {rs : List Reg} (h : AgreeBut r s s') (hr : r ∉ rs) : AgreeOn rs s s' := by
  obtain ⟨hreg, hpc, -, hmem⟩ := h
  exact ⟨fun q hq => hreg q (ne_of_mem_of_not_mem hq hr), hpc, hmem⟩

theorem readReg_commit_dest {e : Effects} (h : e.reg.map Prod.fst = some r) :
    readReg (commit e s') r = readReg (commit e s) r := by
  obtain ⟨⟨rd, v⟩, hreg, rfl⟩ := Option.map_eq_some_iff.1 h
  simp [readReg_commit, hreg]

end AgreeBut

/-- Settles O8: the handler's result is a function of the sources, and committing it to both states writes
the same value to the destination. -/
theorem onlyTheSourceRegistersAreRead : Obligations.OnlyTheSourceRegistersAreRead := by
  unfold Obligations.OnlyTheSourceRegistersAreRead
  intro i s s' t r hr hs h
  obtain ⟨H, hH, hexec, hexec'⟩ := exec_eq_complete_both (.of_agreeBut hs hr)
  rw [hexec']
  rw [hexec] at h
  obtain ⟨e, he, rfl⟩ | ⟨x, hx, rfl⟩ := complete_cases h
  · exact ⟨commit e s', by rw [he, complete_ok], commit_agreeBut hs e,
      fun hd _ _ => readReg_commit_dest (hd ▸ hH.writes_dest he)⟩
  · exact ⟨takeException x s', by rw [hx, complete_error], takeException_agreeBut hs x,
      fun _ _ ht => nomatch ht⟩

/-! ## The cases of a step (R88) -/

/-- What a call of `step()` does: nothing when Trapped; otherwise the exception of the fetch, that of a word
that names no operation, or the named instruction (R88, R92). -/
theorem step_cases {s t : State} (h : step s = .next t) :
    (∃ e, s.status = .trapped e ∧ t = s) ∨
    s.status = .runnable ∧
      ((∃ x, fetchWord s = .error x ∧ t = takeException x s) ∨
       (∃ w d, fetchWord s = .ok w ∧ decodeWord w = .error d ∧
          t = takeException (illegalInstruction w) s) ∨
       ∃ w i, fetchWord s = .ok w ∧ decodeWord w = .ok i ∧ exec i s = .next t) := by
  cases hst : s.status with
  | trapped e =>
    rw [step_trapped hst] at h
    exact .inl ⟨e, rfl, by simpa using h.symm⟩
  | runnable =>
    refine .inr ⟨rfl, ?_⟩
    cases hf : fetchWord s with
    | error x =>
      rw [step_fetch_fails hst hf] at h
      exact .inl ⟨x, rfl, by simpa using h.symm⟩
    | ok w =>
      rw [step_fetched hst hf] at h
      cases hd : decodeWord w with
      | error d =>
        rw [dispatchWord_illegal s hd] at h
        exact .inr (.inl ⟨w, d, rfl, hd, by simpa using h.symm⟩)
      | ok i => exact .inr (.inr ⟨w, i, rfl, hd, dispatchWord_instr s hd ▸ h⟩)

/-! ## The zero register (R17) -/

/-- Index 0 reads the same in all states, so agreeing but there is agreeing everywhere. -/
theorem agreeBut_zero_iff {s s' : State} : AgreeBut 0 s s' ↔ Indistinguishable s s' := by
  refine and_congr_left fun _ => ⟨fun h r => ?_, fun h r _ => h r⟩
  by_cases hr : r = 0
  · rw [hr, readReg_zero, readReg_zero]
  · exact h r hr

theorem AgreeOn.of_indistinguishable {s s' : State} (h : Indistinguishable s s') (rs : List Reg) :
    AgreeOn rs s s' := by
  obtain ⟨hreg, hpc, -, hmem⟩ := h
  exact ⟨fun q _ => hreg q, hpc, hmem⟩

theorem fetchWord_congr {s s' : State} (hpc : s'.pc = s.pc) (hmem : s'.mem = s.mem) :
    fetchWord s' = fetchWord s := by
  rw [fetchWord, fetchWord, hpc, hmem]

theorem exec_indistinguishable {i : Instr} {s s' t : State} (hs : Indistinguishable s s')
    (h : exec i s = .next t) : ∃ t', exec i s' = .next t' ∧ Indistinguishable t t' := by
  obtain ⟨H, -, hexec, hexec'⟩ := exec_eq_complete_both (.of_indistinguishable hs (sources i))
  rw [hexec']
  rw [hexec] at h
  simp only [← agreeBut_zero_iff] at hs ⊢
  obtain ⟨e, he, rfl⟩ | ⟨x, hx, rfl⟩ := complete_cases h
  · exact ⟨_, by rw [he, complete_ok], commit_agreeBut hs e⟩
  · exact ⟨_, by rw [hx, complete_error], takeException_agreeBut hs x⟩

/-- Steps of states that cannot be told apart give states that cannot be told apart. -/
theorem step_indistinguishable {s s' t : State} (hs : Indistinguishable s s') (h : step s = .next t) :
    ∃ t', step s' = .next t' ∧ Indistinguishable t t' := by
  have hexc (x : Raise) : Indistinguishable (takeException x s) (takeException x s') :=
    agreeBut_zero_iff.1 (takeException_agreeBut (agreeBut_zero_iff.2 hs) x)
  have ⟨_, hpc, hst, hmem⟩ := hs
  have hf := fetchWord_congr hpc hmem
  obtain ⟨e, he, rfl⟩ | ⟨hrun, ⟨x, hx, rfl⟩ | ⟨w, d, hw, hd, rfl⟩ | ⟨w, i, hw, hd, hi⟩⟩ := step_cases h
  · exact ⟨s', step_trapped (hst.trans he), hs⟩
  · exact ⟨_, step_fetch_fails (hst.trans hrun) (hf.trans hx), hexc x⟩
  · rw [step_fetched (hst.trans hrun) (hf.trans hw), dispatchWord_illegal s' hd]
    exact ⟨_, rfl, hexc _⟩
  · rw [step_fetched (hst.trans hrun) (hf.trans hw), dispatchWord_instr s' hd]
    exact exec_indistinguishable hs hi

/-- Another value in storage cell 0 is behind the zero guard. -/
theorem indistinguishable_set_cell_zero (s : State) (v : Word) :
    Indistinguishable s { s with regcell := s.regcell.set 0 v } := by
  refine ⟨fun r => ?_, rfl, rfl, rfl⟩
  by_cases hr : r = 0
  · rw [hr, readReg_zero, readReg_zero]
  · have hne : 0 ≠ (r : Nat) := fun h => hr (Fin.ext h.symm)
    simp [readReg_of_ne_zero _ hr, hne]

/-- Settles O6: the guard hides cell 0, and a step keeps states that cannot be told apart so. -/
theorem zeroRegisterIsNeverObservable : Obligations.ZeroRegisterIsNeverObservable := by
  unfold Obligations.ZeroRegisterIsNeverObservable
  refine ⟨fun s => ⟨readReg_zero s, readReg_zero s, fun r hr => ?_⟩, fun _ _ _ => readReg_zero _,
    fun s t v h => step_indistinguishable (indistinguishable_set_cell_zero s v) h⟩
  exact ⟨readReg_of_ne_zero s hr, readReg_of_ne_zero s hr⟩

/-! ## The invariant: the records of R163 to R169 -/

/-- The record `takeException` makes of `x` at `s` (R163). -/
def recordOf (x : Raise) (s : State) : Exception := ⟨x.kind, s.pc, x.access, x.addr⟩

theorem takeException_status_recordOf (x : Raise) (s : State) :
    (takeException x s).status = .trapped (recordOf x s) := rfl

theorem takeException_recordLegal {x : Raise} {s : State} (h : RecordLegal (recordOf x s) s) :
    RecordLegal (recordOf x s) (takeException x s) := by
  obtain ⟨h1, h2, h3, h4, h5, h6, h7⟩ := h
  exact ⟨h1, h2, h3, h4, h5, h6, h7⟩

theorem illegalInstruction_legal (w : Word32) (s : State) :
    RecordLegal (recordOf (illegalInstruction w) s) s where
  pc_kept := rfl
  access_of_kind := by simp [recordOf, illegalInstruction, ExceptionKind.accesses]
  decode_word _ := by
    show (w.setWidth 64).toNat < 2 ^ 32
    have := w.isLt
    simp; omega
  fetch_addr h := nomatch h
  misaligned h := nomatch h
  fetch_outside h := nomatch h
  access_outside h := nomatch h

theorem alignmentFault_legal {acc : Access} {a : Word} {s : State} (hacc : acc ≠ .decode)
    (hf : acc = .fetch → a = s.pc)
    (ha : a.toNat % (if acc = .load ∨ acc = .store then 8 else 4) ≠ 0) :
    RecordLegal (recordOf ⟨.alignmentFault, acc, a⟩ s) s where
  pc_kept := rfl
  access_of_kind := by cases acc <;> simp_all [recordOf, ExceptionKind.accesses]
  decode_word h := absurd h hacc
  fetch_addr := hf
  misaligned _ := ha
  fetch_outside h := nomatch h
  access_outside h := nomatch h

theorem fetchFault_legal {s : State} (hr : s.mem.inRange s.pc.toNat 4 = false) :
    RecordLegal (recordOf ⟨.fetchFault, .fetch, s.pc⟩ s) s where
  pc_kept := rfl
  access_of_kind := by simp [recordOf, ExceptionKind.accesses]
  decode_word h := nomatch h
  fetch_addr _ := rfl
  misaligned h := nomatch h
  fetch_outside _ := hr
  access_outside h := nomatch h

theorem memoryAccessFault_legal {acc : Access} (hacc : acc = .load ∨ acc = .store) {a : Word} {s : State}
    (hr : s.mem.inRange a.toNat 8 = false) :
    RecordLegal (recordOf ⟨.memoryAccessFault, acc, a⟩ s) s where
  pc_kept := rfl
  access_of_kind := by simpa [recordOf, ExceptionKind.accesses] using hacc
  decode_word h := by rcases hacc with rfl | rfl <;> cases h
  fetch_addr h := by rcases hacc with rfl | rfl <;> cases h
  misaligned h := nomatch h
  fetch_outside h := nomatch h
  access_outside _ := hr

/-- A misaligned target (R127). -/
theorem checkTarget_legal {acc : Access} (hacc : acc = .jump ∨ acc = .branch) {a : Word} {x : Raise}
    (h : checkTarget acc a = some x) (s : State) : RecordLegal (recordOf x s) s := by
  obtain ⟨rfl, h4⟩ := checkTarget_eq_some h
  rcases hacc with rfl | rfl <;> exact alignmentFault_legal nofun nofun h4

/-- The checks of a fetch (R165, R166). -/
theorem fetchWord_legal {s : State} {x : Raise} (h : fetchWord s = .error x) :
    RecordLegal (recordOf x s) s := by
  have hc := memRead_error h
  obtain ⟨h4, he⟩ | ⟨-, hr, he⟩ | ⟨-, -, he⟩ := checkAccess_cases .fetch s.pc 4 s.mem <;>
    cases he.symm.trans hc
  · exact alignmentFault_legal nofun (fun _ => rfl) h4
  · exact fetchFault_legal hr

theorem inRange_eq_false_mono {m : Memory} {a n k : Nat} (hn : n ≤ k) (h : m.inRange a n = false) :
    m.inRange a k = false := by
  rw [← Bool.not_eq_true, inRange_iff] at h ⊢
  omega

/-- The checks of a load or store: an address that is no multiple of the width is none of 8 (R166), and the
8 bytes there hold those of the access (R167). -/
theorem checkAccess_legal {acc : Access} (hacc : acc = .load ∨ acc = .store) {a : Word} {n : Nat}
    (hn : n ∣ 8) {s : State} {x : Raise} (h : checkAccess acc a n s.mem = some x) :
    RecordLegal (recordOf x s) s := by
  obtain ⟨ha, he⟩ | ⟨-, hr, he⟩ | ⟨-, -, he⟩ := checkAccess_cases acc a n s.mem <;>
    cases he.symm.trans h
  · have h8 : a.toNat % 8 ≠ 0 := fun h8 =>
      ha (Nat.mod_eq_zero_of_dvd (hn.trans (Nat.dvd_of_mod_eq_zero h8)))
    rcases hacc with rfl | rfl <;> exact alignmentFault_legal nofun nofun h8
  · have hkind : rangeKind acc = .memoryAccessFault := by rcases hacc with rfl | rfl <;> rfl
    rw [hkind]
    exact memoryAccessFault_legal hacc (inRange_eq_false_mono (Nat.le_of_dvd (by decide) hn) hr)

theorem HandlerForm.raise_legal {i : Instr} {H : State → HandlerResult} (hH : HandlerForm i H)
    {s : State} {x : Raise} (h : H s = .error x) : RecordLegal (recordOf x s) s := by
  cases hH with
  | result => cases h
  | jumps => exact checkTarget_legal (.inl rfl) (jumpTo_error h) s
  | branches => exact checkTarget_legal (.inr rfl) (branchIf_error h) s
  | loads _ _ hn => exact checkAccess_legal (.inl rfl) hn (load_error h)
  | stores _ _ hn => exact checkAccess_legal (.inr rfl) hn (store_error h)
  | noEffect => cases h

/-! ## The invariant: every step keeps it -/

theorem takeException_inv {x : Raise} {s : State} (hs : Inv s) (h : RecordLegal (recordOf x s) s) :
    Inv (takeException x s) where
  memory := hs.memory
  aligned := hs.aligned
  record e he := by
    obtain rfl := Status.trapped.inj (he.symm.trans (takeException_status_recordOf x s))
    exact takeException_recordLegal h

theorem nextPc_aligned {pc : Word} {adv : Advance} (hpc : pc.toNat % 4 = 0)
    (h : ∀ a, adv = .redirected a → a.toNat % 4 = 0) : (nextPc pc adv).toNat % 4 = 0 := by
  cases adv with
  | default =>
    show (pc + 4).toNat % 4 = 0
    bv_omega
  | redirected a => exact h a rfl

theorem commit_inv {e : Effects} {s : State} (hs : Inv s) (hrun : s.status = .runnable)
    (h : ∀ a, e.advance = .redirected a → a.toNat % 4 = 0) : Inv (commit e s) where
  memory := commit_mem_wf e s hs.memory
  aligned := nextPc_aligned hs.aligned h
  record x hx := by
    rw [commit_status, hrun] at hx
    cases hx

theorem exec_inv {i : Instr} {s t : State} (hs : Inv s) (hrun : s.status = .runnable)
    (h : exec i s = .next t) : Inv t := by
  obtain ⟨H, hH, hexec⟩ := exec_form i
  rw [hexec] at h
  obtain ⟨e, he, rfl⟩ | ⟨x, hx, rfl⟩ := complete_cases h
  · exact commit_inv hs hrun fun _ => hH.target_aligned he
  · exact takeException_inv hs (hH.raise_legal hx)

/-- Settles O40: by the cases of a step, each exception with a legal record and each commit with an aligned
pc and memory in canonical form. -/
theorem stepKeepsTheInvariant : Obligations.StepKeepsTheInvariant := by
  unfold Obligations.StepKeepsTheInvariant
  intro s t hs h
  obtain ⟨e, -, rfl⟩ | ⟨hrun, ⟨x, hx, rfl⟩ | ⟨w, d, -, -, rfl⟩ | ⟨w, i, -, -, hi⟩⟩ := step_cases h
  · exact hs
  · exact takeException_inv hs (fetchWord_legal hx)
  · exact takeException_inv hs (illegalInstruction_legal w s)
  · exact exec_inv hs hrun hi

end Sys2Proof.Proofs
end

section
/-! PROOFS. Memory (20_memory.md R34 to R48). What a handler does to memory is its one store; a store that
passes its checks and an access after it are each described once, and what is read back is then a law of
`writeLE`. -/

namespace Sys2Proof.Proofs

open Sys2Proof Sys2Proof.Machine Sys2Proof.Claims

/-! ## Only a store changes memory (R44) -/

theorem memoryKept_of_mem_eq {s t : State} (h : t.mem = s.mem) : MemoryKept s t :=
  ⟨⟨by rw [h], by rw [h]⟩, fun a => by rw [h]⟩

theorem commit_mem_of_no_store {e : Effects} (h : e.store = none) (s : State) :
    (commit e s).mem = s.mem := by
  rw [commit_mem, h]

/-- A completed handler that is no store's writes no memory (R87). -/
theorem HandlerForm.no_store {i : Instr} {H : State → HandlerResult} {s : State} {e : Effects}
    (hH : HandlerForm i H) (hi : isStore i = false) (h : H s = .ok e) : e.store = none := by
  cases hH with
  | result => cases h; rfl
  | jumps => obtain ⟨rfl, -⟩ := jumpTo_ok h; rfl
  | branches => obtain rfl | ⟨rfl, -⟩ := branchIf_ok h <;> rfl
  | loads => obtain ⟨v, rfl⟩ := load_ok h; rfl
  | stores hc => rw [hc] at hi; cases hi
  | noEffect => cases h; rfl

/-- Settles O9: a commit keeps the range and, without a store, every byte; an exception keeps memory. -/
theorem onlyStoresChangeMemory : Obligations.OnlyStoresChangeMemory := by
  unfold Obligations.OnlyStoresChangeMemory
  intro i s t h
  obtain ⟨H, hH, hexec⟩ := exec_form i
  rw [hexec] at h
  obtain ⟨e, he, rfl⟩ | ⟨x, -, rfl⟩ := complete_cases h
  · exact ⟨commit_mem_range e s,
      fun hi => memoryKept_of_mem_eq (commit_mem_of_no_store (hH.no_store hi he) s)⟩
  · exact ⟨⟨rfl, rfl⟩, fun _ => memoryKept_of_mem_eq (takeException_mem x s)⟩

/-! ## Accesses that pass their checks (R136) -/

theorem ofInt_toInt_add_toInt {n : Nat} (a : Word) (imm : BitVec n) :
    ofInt (a.toInt + imm.toInt) = a + sext imm := by
  rw [ofInt, BitVec.ofInt_add, BitVec.ofInt_toInt]
  rfl

theorem effectiveAddress_eq_eaOf (s : State) (rs1 : Reg) (imm : BitVec 12) :
    effectiveAddress s rs1 imm = eaOf s rs1 imm :=
  (ofInt_toInt_add_toInt _ _).symm

theorem checkAccess_of_within {s : State} {a : Word} {n : Nat} (acc : Access) (ha : a.toNat % n = 0)
    (hr : Within s a.toNat n) : checkAccess acc a n s.mem = none :=
  checkAccess_ok acc a n s.mem ha ((inRange_iff _ _ _).2 hr)

theorem exec_ld (rd rs1 : Reg) (imm : BitVec 12) (s : State) :
    exec (.ld rd rs1 imm) s = complete s (load 8 zext rd rs1 imm s) := rfl

theorem exec_lbu (rd rs1 : Reg) (imm : BitVec 12) (s : State) :
    exec (.lbu rd rs1 imm) s = complete s (load 1 zext rd rs1 imm s) := rfl

theorem exec_sw (rs2 rs1 : Reg) (imm : BitVec 12) (s : State) :
    exec (.sw rs2 rs1 imm) s = complete s (store 4 rs2 rs1 imm s) := rfl

theorem exec_sd (rs2 rs1 : Reg) (imm : BitVec 12) (s : State) :
    exec (.sd rs2 rs1 imm) s = complete s (store 8 rs2 rs1 imm s) := rfl

/-- The state a completed SB, SH, SW or SD leaves: `n` bytes of `v` at `a`, and the pc advanced. -/
def afterStore (s : State) (a : Word) (n : Nat) (v : Word) : State :=
  commit { store := some ⟨a, n, v⟩ } s

@[simp] theorem afterStore_pc (s : State) (a : Word) (n : Nat) (v : Word) :
    (afterStore s a n v).pc = s.pc + 4 := rfl

@[simp] theorem afterStore_status (s : State) (a : Word) (n : Nat) (v : Word) :
    (afterStore s a n v).status = s.status := rfl

@[simp] theorem afterStore_mem (s : State) (a : Word) (n : Nat) (v : Word) :
    (afterStore s a n v).mem = s.mem.writeLE a.toNat v n := rfl

/-- A store does not move the range (R87). -/
@[simp] theorem within_afterStore (s : State) (a : Word) (n : Nat) (v : Word) (b k : Nat) :
    Within (afterStore s a n v) b k ↔ Within s b k := by
  simp [Within]

section Access

variable {s : State} {n : Nat} {rs1 rs2 rd : Reg} {imm : BitVec 12} {i : Instr}

/-- An instruction that stores `n` bytes, aligned and in range, completes in `afterStore`. -/
theorem exec_store_of_within (hi : exec i s = complete s (store n rs2 rs1 imm s))
    (ha : (eaOf s rs1 imm).toNat % n = 0) (hr : Within s (eaOf s rs1 imm).toNat n) :
    exec i s = .next (afterStore s (eaOf s rs1 imm) n (readReg s rs2)) := by
  rw [hi, store, effectiveAddress_eq_eaOf, checkAccess_of_within _ ha hr]
  rfl

theorem load_of_within {extend : BitVec (8 * n) → Word} (ha : (eaOf s rs1 imm).toNat % n = 0)
    (hr : Within s (eaOf s rs1 imm).toNat n) :
    load n extend rd rs1 imm s =
      .ok { reg := some (rd, extend (BitVec.ofNat (8 * n) (s.mem.readLE (eaOf s rs1 imm).toNat n))) } := by
  rw [load, effectiveAddress_eq_eaOf, memRead_of_check_none (checkAccess_of_within _ ha hr)]

/-- A commit that only writes `rd` (R87, R88). -/
theorem writesRd_of_commit {v : Word} (h : exec i s = .next (commit { reg := some (rd, v) } s)) :
    WritesRd i s rd v (s.pc + 4) := by
  refine ⟨_, h, ⟨?_, fun r hr => ?_⟩, rfl, commit_status _ s,
    memoryKept_of_mem_eq (commit_mem_of_no_store rfl s)⟩
  · simp [readReg_commit]
  · simp [readReg_commit, hr]

/-- An instruction that loads `n` bytes, aligned and in range, writes their extended value to `rd`. -/
theorem writesRd_of_load {extend : BitVec (8 * n) → Word}
    (h : exec i s = complete s (load n extend rd rs1 imm s)) (ha : (eaOf s rs1 imm).toNat % n = 0)
    (hr : Within s (eaOf s rs1 imm).toNat n) :
    WritesRd i s rd (extend (BitVec.ofNat (8 * n) (s.mem.readLE (eaOf s rs1 imm).toNat n))) (s.pc + 4) :=
  writesRd_of_commit (by rw [h, load_of_within ha hr, complete_ok])

end Access

/-! ## Reading back what was stored (R37, R46) -/

section ReadBack

variable {s : State} {a v : Word} {n : Nat}

theorem readLE_afterStore (hm : s.mem.wf) (hr : Within s a.toNat n) :
    (afterStore s a n v).mem.readLE a.toNat n = v.toNat % 2 ^ (8 * n) :=
  readLE_writeLE_same _ _ _ _ hm ((inRange_iff _ _ _).2 hr)

theorem readByte_afterStore (hm : s.mem.wf) (hr : Within s a.toNat n) {k : Nat} (hk : k < n) :
    (afterStore s a n v).mem.readByte (a.toNat + k) = v.extractLsb' (8 * k) 8 :=
  readByte_writeLE_inside _ _ _ _ _ hm ((inRange_iff _ _ _).2 hr) hk

theorem readLE_one (m : Memory) (b : Nat) : m.readLE b 1 = (m.readByte b).toNat := by
  simp [Memory.readLE]

theorem zext_ofNat_readLE_doubleword (hm : s.mem.wf) (hr : Within s a.toNat 8) :
    zext (BitVec.ofNat (8 * 8) ((afterStore s a 8 v).mem.readLE a.toNat 8)) = v := by
  rw [readLE_afterStore hm hr]
  apply BitVec.eq_of_toNat_eq
  have := v.isLt
  simp only [zext, BitVec.toNat_setWidth, BitVec.toNat_ofNat]
  omega

theorem zext_ofNat_readLE_byte (hm : s.mem.wf) (hr : Within s a.toNat n) {k : Nat} (hk : k < n) :
    zext (BitVec.ofNat (8 * 1) ((afterStore s a n v).mem.readLE (a.toNat + k) 1)) =
      BitVec.ofNat 64 (v.toNat / 2 ^ (8 * k) % 256) := by
  rw [readLE_one, readByte_afterStore hm hr hk, BitVec.extractLsb'_toNat, Nat.shiftRight_eq_div_pow]
  apply BitVec.eq_of_toNat_eq
  simp only [zext, BitVec.toNat_setWidth, BitVec.toNat_ofNat]
  omega

end ReadBack

/-- Settles O24: after the SD, `ld` reads its 8 bytes and `lbu` one of them. -/
theorem storedDoublewordReadsBack : Obligations.StoredDoublewordReadsBack := by
  unfold Obligations.StoredDoublewordReadsBack
  intro s t rs2 rs1 imm hm ha hr h
  rw [exec_store_of_within (exec_sd rs2 rs1 imm s) ha hr] at h
  obtain rfl := Host.Outcome.next.inj h
  refine ⟨fun rd q imm' hq => ?_, fun rd q imm' k hk hq => ?_⟩
  · have hld := writesRd_of_load (exec_ld rd q imm' _) (by rw [hq, ha])
      (by rwa [hq, within_afterStore])
    rwa [hq, zext_ofNat_readLE_doubleword hm hr] at hld
  · have hbyte : Within s ((eaOf s rs1 imm).toNat + k) 1 := by
      obtain ⟨hlo, hhi⟩ := hr
      exact ⟨by omega, by omega⟩
    have hlbu := writesRd_of_load (exec_lbu rd q imm' _) (Nat.mod_one _)
      (by rwa [hq, within_afterStore])
    rwa [hq, zext_ofNat_readLE_byte hm hr hk] at hlbu

/-! ## A stored word is fetched (R48) -/

/-- The fetch after a store to the next pc gives the low 32 bits that were stored. -/
theorem fetchWord_afterStore {s : State} {a v : Word} (hm : s.mem.wf) (hpc : a = s.pc + 4)
    (ha : a.toNat % 4 = 0) (hr : Within s a.toNat 4) :
    fetchWord (afterStore s a 4 v) = .ok (BitVec.ofNat 32 v.toNat) := by
  subst hpc
  have hr' := (inRange_iff _ _ _).2 ((within_afterStore s (s.pc + 4) 4 v _ _).2 hr)
  rw [fetchWord_ok _ ha hr', afterStore_pc, readLE_afterStore hm hr]
  congr 1
  exact BitVec.eq_of_toNat_eq (by simp)

/-- Settles O25: the next step fetches the stored word, and dispatches it as `i`. -/
theorem storedWordIsExecutedNext : Obligations.StoredWordIsExecutedNext := by
  unfold Obligations.StoredWordIsExecutedNext
  intro s t rs2 rs1 imm i hrun hm hea ha hr h hd
  rw [← hea] at ha hr
  rw [exec_store_of_within (exec_sw rs2 rs1 imm s) ha hr] at h
  obtain rfl := Host.Outcome.next.inj h
  have hrun' : (afterStore s (eaOf s rs1 imm) 4 (readReg s rs2)).status = .runnable := hrun
  rw [step_fetched hrun' (fetchWord_afterStore hm hea ha hr), dispatchWord_instr _ hd]

end Sys2Proof.Proofs
end

section
/-! PROOFS. The fields of a word (30_encoding.md R51 to R62) and the words the classifier rejects (R66 to
R76). A field is a quotient and remainder of the word's value; an immediate is its pieces appended, and its
top bit is bit 31 of the word. -/

namespace Sys2Proof.Proofs

open Sys2Proof Sys2Proof.Machine Sys2Proof.Claims

/-! ## Fields -/

@[simp] theorem toNat_bits (w : Word32) (lo len : Nat) :
    (bits w lo len).toNat = w.toNat / 2 ^ lo % 2 ^ len := by
  rw [bits, BitVec.extractLsb'_toNat, Nat.shiftRight_eq_div_pow]

theorem toNat_opcode (w : Word32) : (opcode w).toNat = opcodeOf w := by
  simp [opcode, opcodeOf]

theorem toNat_funct3 (w : Word32) : (funct3 w).toNat = funct3Of w := by
  simp [funct3, funct3Of]

theorem regOf_bits (w : Word32) (lo : Nat) : regOf (bits w lo 5) = regAt w lo :=
  Fin.ext (toNat_bits w lo 5)

theorem fieldRd_eq (w : Word32) : fieldRd w = regAt w 7 := regOf_bits w 7

theorem fieldRs1_eq (w : Word32) : fieldRs1 w = regAt w 15 := regOf_bits w 15

theorem fieldRs2_eq (w : Word32) : fieldRs2 w = regAt w 20 := regOf_bits w 20

/-! ## Immediates as appended fields

In this form the value of an immediate is a sum; it is also the form in which `opS`, `opB`, `opU` and `opJ`
give the operands of a word. -/

theorem immS_eq_append (w : Word32) : immS w = bits w 25 7 ++ bits w 7 5 := by
  apply BitVec.eq_of_getLsbD_eq
  intro i hi
  simp only [BitVec.getLsbD_append]
  interval_cases i <;> simp [immS]

theorem immB_eq_append (w : Word32) :
    immB w = bits w 31 1 ++ bits w 7 1 ++ bits w 25 6 ++ bits w 8 4 ++ 0#1 := by
  apply BitVec.eq_of_getLsbD_eq
  intro i hi
  simp only [BitVec.getLsbD_append]
  interval_cases i <;> simp [immB]

theorem immU_eq_append (w : Word32) : immU w = bits w 12 20 ++ 0#12 := by
  apply BitVec.eq_of_getLsbD_eq
  intro i hi
  simp only [BitVec.getLsbD_append]
  interval_cases i <;> simp [immU]

theorem immJ_eq_append (w : Word32) :
    immJ w = bits w 31 1 ++ bits w 12 8 ++ bits w 20 1 ++ bits w 21 10 ++ 0#1 := by
  apply BitVec.eq_of_getLsbD_eq
  intro i hi
  simp only [BitVec.getLsbD_append]
  interval_cases i <;> simp [immJ]

/-! ## Unsigned values of the immediates -/

theorem toNat_append_eq_add {m n : Nat} (x : BitVec m) (y : BitVec n) :
    (x ++ y).toNat = x.toNat * 2 ^ n + y.toNat := by
  rw [BitVec.toNat_append, ← Nat.shiftLeft_add_eq_or_of_lt y.isLt, Nat.shiftLeft_eq]

/-- A field that ends at bit 31 needs no remainder. -/
theorem toNat_bits_top (w : Word32) {lo len : Nat} (h : lo + len = 32) :
    (bits w lo len).toNat = w.toNat / 2 ^ lo := by
  rw [toNat_bits, Nat.mod_eq_of_lt]
  exact Nat.div_lt_of_lt_mul (by rw [← Nat.pow_add, h]; exact w.isLt)

theorem toNat_immI (w : Word32) : (immI w).toNat = w.toNat / 2 ^ 20 :=
  toNat_bits_top w rfl

theorem toNat_immS (w : Word32) :
    (immS w).toNat = w.toNat / 2 ^ 25 * 2 ^ 5 + w.toNat / 2 ^ 7 % 2 ^ 5 := by
  rw [immS_eq_append, toNat_append_eq_add, toNat_bits_top w rfl, toNat_bits]

theorem toNat_immB (w : Word32) :
    (immB w).toNat = w.toNat / 2 ^ 31 * 2 ^ 12 + w.toNat / 2 ^ 7 % 2 * 2 ^ 11 +
      w.toNat / 2 ^ 25 % 2 ^ 6 * 2 ^ 5 + w.toNat / 2 ^ 8 % 2 ^ 4 * 2 := by
  simp only [immB_eq_append, toNat_append_eq_add, toNat_bits_top w (show 31 + 1 = 32 from rfl), toNat_bits,
    BitVec.toNat_zero]
  omega

theorem toNat_immU (w : Word32) : (immU w).toNat = w.toNat / 2 ^ 12 * 2 ^ 12 := by
  rw [immU_eq_append, toNat_append_eq_add, toNat_bits_top w rfl, BitVec.toNat_zero, Nat.add_zero]

theorem toNat_immJ (w : Word32) :
    (immJ w).toNat = w.toNat / 2 ^ 31 * 2 ^ 20 + w.toNat / 2 ^ 12 % 2 ^ 8 * 2 ^ 12 +
      w.toNat / 2 ^ 20 % 2 * 2 ^ 11 + w.toNat / 2 ^ 21 % 2 ^ 10 * 2 := by
  simp only [immJ_eq_append, toNat_append_eq_add, toNat_bits_top w (show 31 + 1 = 32 from rfl), toNat_bits,
    BitVec.toNat_zero]
  omega

/-! ## Bit 31 is the sign (R62) -/

theorem msb_immI (w : Word32) : (immI w).msb = w.msb := by
  simp [immI, BitVec.msb_eq_getLsbD_last]

theorem msb_immS (w : Word32) : (immS w).msb = w.msb := by
  simp [immS, BitVec.msb_eq_getLsbD_last]

theorem msb_immB (w : Word32) : (immB w).msb = w.msb := by
  simp [immB, BitVec.msb_eq_getLsbD_last]

theorem msb_immU (w : Word32) : (immU w).msb = w.msb := by
  simp [immU, BitVec.msb_eq_getLsbD_last]

theorem msb_immJ (w : Word32) : (immJ w).msb = w.msb := by
  simp [immJ, BitVec.msb_eq_getLsbD_last]

theorem msb_word_iff (w : Word32) : w.msb = true ↔ w.toNat / 2 ^ 31 = 1 := by
  have hlt := w.isLt
  rw [BitVec.msb_eq_true_iff_two_mul_ge]
  omega

section Sign

variable {n : Nat} {v : BitVec n} {w : Word32}

/-- The signed value of an immediate whose top bit is bit 31 of the word. -/
theorem toInt_of_msb_eq (h : v.msb = w.msb) :
    v.toInt = (v.toNat : Int) - (if w.toNat / 2 ^ 31 = 1 then 2 ^ n else 0) := by
  rw [BitVec.toInt_eq_msb_cond, h]
  by_cases hw : w.toNat / 2 ^ 31 = 1
  · rw [if_pos ((msb_word_iff w).2 hw), if_pos hw]; norm_cast
  · rw [if_neg (mt (msb_word_iff w).1 hw), if_neg hw, sub_zero]

theorem toInt_neg_iff_of_msb_eq (h : v.msb = w.msb) : v.toInt < 0 ↔ w.toNat / 2 ^ 31 = 1 := by
  rw [← msb_word_iff, ← h, BitVec.msb_eq_toInt, decide_eq_true_iff]

/-- A power of two that divides the unsigned value of a signed number divides the number. -/
theorem two_pow_dvd_toInt {k : Nat} (hk : k ≤ n) (h : 2 ^ k ∣ v.toNat) :
    ((2 ^ k : Nat) : Int) ∣ v.toInt := by
  rw [BitVec.toInt_eq_msb_cond]
  have hv : ((2 ^ k : Nat) : Int) ∣ v.toNat := Int.natCast_dvd_natCast.2 h
  split
  · exact dvd_sub hv (Int.natCast_dvd_natCast.2 (pow_dvd_pow 2 hk))
  · exact hv

end Sign

/-- Settles O33: each field is its place in the word; each immediate's signed value is that of its pieces,
with bit 31 of the word as its sign. -/
theorem extractorsReadTheFields : Obligations.ExtractorsReadTheFields := by
  unfold Obligations.ExtractorsReadTheFields
  intro w
  have hop := toNat_opcode w
  have hf3 := toNat_funct3 w
  have hrd := fieldRd_eq w
  have hrs1 := fieldRs1_eq w
  have hrs2 := fieldRs2_eq w
  refine ⟨?_, ⟨hop, hf3, hrs1, hrd, ?_⟩, ⟨hop, hf3, hrs1, hrs2, ?_⟩, ⟨hop, hf3, hrs1, hrs2, ?_⟩,
    ⟨hop, hrd, ?_⟩, ⟨hop, hrd, ?_⟩⟩
  · rw [extractR, hrd, hrs1, hrs2]; rfl
  · rw [← toNat_immI]; exact toInt_of_msb_eq (msb_immI w)
  · rw [← toNat_immS]; exact toInt_of_msb_eq (msb_immS w)
  · rw [← toNat_immB]; exact toInt_of_msb_eq (msb_immB w)
  · rw [← toNat_immU]; exact toInt_of_msb_eq (msb_immU w)
  · rw [← toNat_immJ]; exact toInt_of_msb_eq (msb_immJ w)

/-- Settles O34: the low bits of the B, J and U immediates are 0, and bit 31 of the word is the sign of each
immediate. -/
theorem immediateInvariants : Obligations.ImmediateInvariants := by
  unfold Obligations.ImmediateInvariants
  intro w
  have hB : 2 ^ 1 ∣ (immB w).toNat := by rw [toNat_immB]; omega
  have hJ : 2 ^ 1 ∣ (immJ w).toNat := by rw [toNat_immJ]; omega
  have hU : 2 ^ 12 ∣ (immU w).toNat := by rw [toNat_immU]; exact dvd_mul_left _ _
  exact ⟨Int.emod_eq_zero_of_dvd (two_pow_dvd_toInt (by decide) hB),
    Int.emod_eq_zero_of_dvd (two_pow_dvd_toInt (by decide) hJ),
    Int.emod_eq_zero_of_dvd (two_pow_dvd_toInt (by decide) hU),
    toInt_neg_iff_of_msb_eq (msb_immI w), toInt_neg_iff_of_msb_eq (msb_immS w),
    toInt_neg_iff_of_msb_eq (msb_immB w), toInt_neg_iff_of_msb_eq (msb_immJ w)⟩

/-! ## The words the classifier rejects (R66 to R76) -/

theorem classify_of_opcode_unassigned {w : Word32} (h : (opcode w).toNat ∉ assignedOpcodes) :
    classify w = .illegal := by
  simp only [assignedOpcodes, List.mem_cons, not_or] at h
  simp [classify, ← BitVec.toNat_inj, h]

theorem opcode_cases {o : BitVec 7} (h : o.toNat ∈ assignedOpcodes) :
    o = opcOp ∨ o = opcOp32 ∨ o = opcOpImm ∨ o = opcOpImm32 ∨ o = opcLoad ∨ o = opcJalr ∨ o = opcStore ∨
      o = opcBranch ∨ o = opcLui ∨ o = opcAuipc ∨ o = opcJal ∨ o = opcMiscMem ∨ o = opcSystem := by
  simpa [assignedOpcodes, ← BitVec.toNat_inj] using h

/-- The funct3 values of the word forms that R71 and R72 leave unassigned. -/
theorem wordFunct3_eq_false_iff : ∀ f : BitVec 3, wordFunct3 f = false ↔
    f.toNat = 2 ∨ f.toNat = 3 ∨ f.toNat = 4 ∨ f.toNat = 6 ∨ f.toNat = 7 := by decide

/-- The funct3 values of JALR that R73 leaves unassigned. -/
theorem ne_zero_iff_funct3 : ∀ f : BitVec 3, f ≠ 0 ↔
    f.toNat = 1 ∨ f.toNat = 2 ∨ f.toNat = 3 ∨ f.toNat = 4 ∨ f.toNat = 5 ∨ f.toNat = 6 ∨ f.toNat = 7 := by
  decide

/-- The funct3 values of STORE that R68 leaves unassigned. -/
theorem three_lt_iff_funct3 : ∀ f : BitVec 3, 3 < f.toNat ↔
    f.toNat = 4 ∨ f.toNat = 5 ∨ f.toNat = 6 ∨ f.toNat = 7 := by decide

/-- With an assigned opcode, the pair alone decides (R67 to R73). -/
theorem classify_iff_of_opcode_assigned {w : Word32} (h : (opcode w).toNat ∈ assignedOpcodes) :
    classify w = .illegal ↔ ((opcode w).toNat, (funct3 w).toNat) ∈ unassignedPairs := by
  obtain h | h | h | h | h | h | h | h | h | h | h | h | h := opcode_cases h
  · simp [classify, h, unassignedPairs]
  · simpa [classify, h, unassignedPairs] using wordFunct3_eq_false_iff (funct3 w)
  · simp [classify, h, unassignedPairs]
  · simpa [classify, h, unassignedPairs] using wordFunct3_eq_false_iff (funct3 w)
  · simp [classify, h, unassignedPairs, ← BitVec.toNat_inj]
  · simpa [classify, h, unassignedPairs] using ne_zero_iff_funct3 (funct3 w)
  · simpa [classify, h, unassignedPairs] using three_lt_iff_funct3 (funct3 w)
  · simp [classify, h, unassignedPairs, ← BitVec.toNat_inj, or_iff_not_imp_left]
  · simp [classify, h, unassignedPairs]
  · simp [classify, h, unassignedPairs]
  · simp [classify, h, unassignedPairs]
  · simp [classify, h, unassignedPairs]
  · simp [classify, h, unassignedPairs]

/-- The classifier's domain (R66 to R76). -/
theorem classify_eq_illegal_iff (w : Word32) : classify w = .illegal ↔
    opcodeOf w ∉ assignedOpcodes ∨ (opcodeOf w, funct3Of w) ∈ unassignedPairs := by
  rw [← toNat_opcode, ← toNat_funct3]
  by_cases h : (opcode w).toNat ∈ assignedOpcodes
  · rw [classify_iff_of_opcode_assigned h]
    exact ⟨.inr, fun h' => h'.resolve_left (not_not_intro h)⟩
  · exact iff_of_true (classify_of_opcode_unassigned h) (.inl h)

/-- Every opcode of the table ends in 11, so a word whose low bits differ has none of them (R76). -/
theorem opcodeOf_unassigned_of_low_bits {w : Word32} (h : w.toNat % 4 ≠ 3) :
    opcodeOf w ∉ assignedOpcodes := by
  have hmod : ∀ o ∈ assignedOpcodes, o % 4 = 3 := by decide
  intro hw
  have := hmod _ hw
  rw [opcodeOf] at this
  omega

theorem decodeWord_of_classify_illegal {w : Word32} (h : classify w = .illegal) :
    decodeWord w = .error .illegalEncoding := by
  rw [decodeWord, h]

/-- A word that names no operation takes IllegalInstruction with the word as its record's address (R164). -/
theorem illegalHere_of_decodeWord_error {w : Word32} {d : DecodeReject} (s : State)
    (h : decodeWord w = .error d) : IllegalHere w s := by
  have hw : w.setWidth 64 = BitVec.ofNat 64 w.toNat := BitVec.eq_of_toNat_eq (by simp)
  rw [IllegalHere, dispatchWord_illegal s h, ← hw]
  rfl

/-- Settles O28: the classifier's domain, of which the low two bits of a word already decide a part; an
Illegal word does not decode, so its step takes the exception. -/
theorem unassignedWordsAreIllegal : Obligations.UnassignedWordsAreIllegal := by
  unfold Obligations.UnassignedWordsAreIllegal
  intro w s
  exact ⟨classify_eq_illegal_iff w,
    fun h => (classify_eq_illegal_iff w).2 (.inl (opcodeOf_unassigned_of_low_bits h)),
    fun h => illegalHere_of_decodeWord_error s (decodeWord_of_classify_illegal h)⟩

end Sys2Proof.Proofs
end

section
/-! PROOFS. Dispatch and the step (40_dispatch_and_step.md R81 to R92). A step answers one of the cases
`step_cases` lists; a selector that names no operation is shown on the record the classifier hands to
`select`, and reaches a step through `decodeWord`. -/

namespace Sys2Proof.Proofs

open Sys2Proof Sys2Proof.Machine Sys2Proof.Claims

/-! ## All or nothing (R90) -/

theorem stepResult_of_runnable {s : State} (h : s.status = .runnable) : stepResult s = .ok () := by
  rw [stepResult, h]

theorem stepResult_of_trapped {s : State} {e : Exception} (h : s.status = .trapped e) :
    stepResult s = .error e := by
  rw [stepResult, h]

/-- Every call of `step()` gives a next state (R93). -/
theorem step_answers (s : State) : ∃ t, step s = .next t := by
  cases hst : s.status with
  | trapped e => exact ⟨s, step_trapped hst⟩
  | runnable =>
    cases hf : fetchWord s with
    | error x => exact ⟨_, step_fetch_fails hst hf⟩
    | ok w =>
      rw [step_fetched hst hf]
      cases hd : decodeWord w with
      | error d => exact ⟨_, dispatchWord_illegal s hd⟩
      | ok i => rw [dispatchWord_instr s hd]; exact exec_answers i s

/-- An exception is recorded with the step-start pc, returned, and changes nothing else (R171, R172). -/
theorem takeException_records_only (x : Raise) (s : State) :
    ∃ e, takeException x s = { s with status := .trapped e } ∧ e.pc = s.pc ∧
      stepResult (takeException x s) = .error e :=
  ⟨recordOf x s, rfl, rfl, stepResult_of_trapped (takeException_status_recordOf x s)⟩

/-- Settles O3: by the cases of a step; the named instruction commits and stays Runnable, or takes its
exception as a failed fetch and a word that names no operation do. -/
theorem stepIsAllOrNothing : Obligations.StepIsAllOrNothing := by
  unfold Obligations.StepIsAllOrNothing
  intro s hrun
  obtain ⟨t, h⟩ := step_answers s
  refine ⟨t, h, ?_⟩
  obtain ⟨e, he, -⟩ | ⟨-, ⟨x, -, rfl⟩ | ⟨w, d, -, -, rfl⟩ | ⟨w, i, hw, hd, hi⟩⟩ := step_cases h
  · cases hrun.symm.trans he
  · exact .inr (takeException_records_only x s)
  · exact .inr (takeException_records_only _ s)
  · obtain ⟨e, -, rfl⟩ | ⟨x, rfl⟩ := exec_cases hi
    · have hok : (commit e s).status = .runnable := (commit_status e s).trans hrun
      exact .inl ⟨hok, stepResult_of_runnable hok, w, i, hw, hd, hi⟩
    · exact .inr (takeException_records_only x s)

/-! ## A Trapped hart (R92) -/

theorem stepsFrom_succ_of_step {s t : State} (h : step s = .next t) (n : Nat) :
    stepsFrom (n + 1) s = stepsFrom n t := by
  rw [stepsFrom, h]

theorem stepsFrom_trapped {s : State} {e : Exception} (h : s.status = .trapped e) (n : Nat) :
    stepsFrom n s = some s := by
  induction n with
  | zero => rfl
  | succ n ih => rw [stepsFrom_succ_of_step (step_trapped h), ih]

/-- Settles O4: by induction on the number of calls, none of which moves the hart. -/
theorem trappedHartStaysTrapped : Obligations.TrappedHartStaysTrapped := by
  unfold Obligations.TrappedHartStaysTrapped
  intro s e n h
  exact ⟨stepsFrom_trapped h n, stepResult_of_trapped h⟩

/-! ## The advance of the pc (R81, R89) -/

/-- A completed handler that is no jump's and no branch's signals `Default` (R81). -/
theorem HandlerForm.advance_default {i : Instr} {H : State → HandlerResult} {s : State} {e : Effects}
    (hH : HandlerForm i H) (hi : isControlTransfer i = false) (h : H s = .ok e) :
    e.advance = .default := by
  cases hH with
  | result => cases h; rfl
  | jumps hc => rw [hc] at hi; cases hi
  | branches hc => rw [hc] at hi; cases hi
  | loads => obtain ⟨v, rfl⟩ := load_ok h; rfl
  | stores => obtain ⟨w, rfl⟩ := store_ok h; rfl
  | noEffect => cases h; rfl

/-- Settles O10: a commit keeps the hart Runnable and its `Default` advances the pc; an exception traps the
hart and keeps the pc. -/
theorem onlyControlTransfersRedirect : Obligations.OnlyControlTransfersRedirect := by
  unfold Obligations.OnlyControlTransfersRedirect
  intro i s t hi hrun h
  obtain ⟨H, hH, hexec⟩ := exec_form i
  rw [hexec] at h
  obtain ⟨e, he, rfl⟩ | ⟨x, -, rfl⟩ := complete_cases h
  · refine ⟨fun _ => ?_, fun hne => absurd ((commit_status e s).trans hrun) hne⟩
    rw [commit_pc, hH.advance_default hi he, nextPc]
  · exact ⟨fun hok => (nomatch hok), fun _ => takeException_pc x s⟩

/-! ## Selectors that name no operation (R84) -/

theorem toNat_funct7 (w : Word32) : (funct7 w).toNat = funct7Of w :=
  toNat_bits_top w rfl

theorem toNat_disc6_immI (w : Word32) : (disc6 (immI w)).toNat = w.toNat / 2 ^ 26 := by
  have := (immI w).isLt
  rw [disc6, BitVec.extractLsb'_toNat, Nat.shiftRight_eq_div_pow, toNat_immI]
  rw [toNat_immI] at this
  omega

theorem toNat_disc7_immI (w : Word32) : (disc7 (immI w)).toNat = funct7Of w := by
  have := (immI w).isLt
  rw [disc7, BitVec.extractLsb'_toNat, Nat.shiftRight_eq_div_pow, toNat_immI, funct7Of]
  rw [toNat_immI] at this
  omega

section FieldValues

variable {w : Word32}

theorem opcode_eq_iff {o : BitVec 7} : opcode w = o ↔ opcodeOf w = o.toNat := by
  rw [← toNat_opcode, BitVec.toNat_inj]

theorem funct3_eq_iff {f : BitVec 3} : funct3 w = f ↔ funct3Of w = f.toNat := by
  rw [← toNat_funct3, BitVec.toNat_inj]

theorem funct7_eq_iff {f : BitVec 7} : funct7 w = f ↔ funct7Of w = f.toNat := by
  rw [← toNat_funct7, BitVec.toNat_inj]

theorem disc6_immI_eq_iff {d : BitVec 6} : disc6 (immI w) = d ↔ w.toNat / 2 ^ 26 = d.toNat := by
  rw [← toNat_disc6_immI, BitVec.toNat_inj]

theorem disc7_immI_eq_iff {d : BitVec 7} : disc7 (immI w) = d ↔ funct7Of w = d.toNat := by
  rw [← toNat_disc7_immI, BitVec.toNat_inj]

/-- The funct3 values of the word forms that R71 and R72 assign. -/
theorem wordFunct3_iff : ∀ f : BitVec 3,
    wordFunct3 f = true ↔ f.toNat = 0 ∨ f.toNat = 1 ∨ f.toNat = 5 := by decide

theorem wordFunct3_of_funct3Of (h : funct3Of w = 0 ∨ funct3Of w = 1 ∨ funct3Of w = 5) :
    wordFunct3 (funct3 w) = true := by
  rwa [wordFunct3_iff, toNat_funct3]

end FieldValues

/-! ### From the word to its record (R82, R83) -/

section Routes

variable {w : Word32}

theorem decodeWord_of_op (h : opcode w = opcOp) : decodeWord w = selectR (extractR w) := by
  simp [decodeWord, classify, h, select]

theorem decodeWord_of_op32 (h : opcode w = opcOp32) (hf : wordFunct3 (funct3 w) = true) :
    decodeWord w = selectR (extractR w) := by
  simp [decodeWord, classify, h, hf, select]

theorem decodeWord_of_opImm (h : opcode w = opcOpImm) :
    decodeWord w = selectOpImm (extractI w) := by
  simp [decodeWord, classify, h, select, selectI, extractI]

theorem decodeWord_of_opImm32 (h : opcode w = opcOpImm32) (hf : wordFunct3 (funct3 w) = true) :
    decodeWord w = selectOpImm32 (extractI w) := by
  simp [decodeWord, classify, h, hf, select, selectI, extractI]

end Routes

/-! ### The records whose selector names no operation -/

/-- OP and OP-32 assign funct7 0000000, and 0100000 with funct3 000 and 101 only (R84). Under 0100000 the
two assigned arms are excluded by `hadd` and `hshift`, which `simp` finds in the context. -/
theorem selectR_unassigned {r : RRecord} (ho : r.opcode = opcOp ∨ r.opcode = opcOp32)
    (h0 : r.funct7 ≠ 0#7) (h32 : r.funct7 = 32#7 → r.funct3 ≠ 0#3 ∧ r.funct3 ≠ 5#3) :
    selectR r = .error .unassignedSelector := by
  by_cases h7 : r.funct7 = 32#7
  · obtain ⟨hadd, hshift⟩ := h32 h7
    rcases ho with ho | ho <;> simp [selectR, ho, h7]
  · rcases ho with ho | ho <;> simp [selectR, ho, h0, h7]

section ShiftRecords

variable {r : IRecord}

theorem selectOpImm_leftShift_unassigned (h3 : r.funct3 = 1#3) (h0 : disc6 r.imm ≠ 0#6) :
    selectOpImm r = .error .unassignedSelector := by
  simp [selectOpImm, h3, h0]

theorem selectOpImm_rightShift_unassigned (h3 : r.funct3 = 5#3) (h0 : disc6 r.imm ≠ 0#6)
    (h16 : disc6 r.imm ≠ 16#6) : selectOpImm r = .error .unassignedSelector := by
  simp [selectOpImm, h3, h0, h16]

theorem selectOpImm32_leftShift_unassigned (h3 : r.funct3 = 1#3) (h0 : disc7 r.imm ≠ 0#7) :
    selectOpImm32 r = .error .unassignedSelector := by
  simp [selectOpImm32, h3, h0]

theorem selectOpImm32_rightShift_unassigned (h3 : r.funct3 = 5#3) (h0 : disc7 r.imm ≠ 0#7)
    (h32 : disc7 r.imm ≠ 32#7) : selectOpImm32 r = .error .unassignedSelector := by
  simp [selectOpImm32, h3, h0, h32]

end ShiftRecords

/-! ### The words whose selector names no operation -/

section Unassigned

variable {w : Word32}

/-- `selectR_unassigned` for the record of a word, in the numbers of its fields. -/
theorem selectR_extractR_unassigned (ho : opcode w = opcOp ∨ opcode w = opcOp32) (h0 : funct7Of w ≠ 0)
    (h32 : ¬ (funct7Of w = 32 ∧ (funct3Of w = 0 ∨ funct3Of w = 5))) :
    selectR (extractR w) = .error .unassignedSelector :=
  selectR_unassigned ho (mt funct7_eq_iff.1 h0) fun h7 =>
    ⟨fun h3 => h32 ⟨funct7_eq_iff.1 h7, .inl (funct3_eq_iff.1 h3)⟩,
      fun h3 => h32 ⟨funct7_eq_iff.1 h7, .inr (funct3_eq_iff.1 h3)⟩⟩

theorem decodeWord_op_unassigned (ho : opcodeOf w = 0x33) (h0 : funct7Of w ≠ 0)
    (h32 : ¬ (funct7Of w = 32 ∧ (funct3Of w = 0 ∨ funct3Of w = 5))) :
    decodeWord w = .error .unassignedSelector := by
  have ho' : opcode w = opcOp := opcode_eq_iff.2 ho
  rw [decodeWord_of_op ho', selectR_extractR_unassigned (.inl ho') h0 h32]

theorem decodeWord_op32_unassigned (ho : opcodeOf w = 0x3B)
    (h3 : funct3Of w = 0 ∨ funct3Of w = 1 ∨ funct3Of w = 5) (h0 : funct7Of w ≠ 0)
    (h32 : ¬ (funct7Of w = 32 ∧ (funct3Of w = 0 ∨ funct3Of w = 5))) :
    decodeWord w = .error .unassignedSelector := by
  have ho' : opcode w = opcOp32 := opcode_eq_iff.2 ho
  rw [decodeWord_of_op32 ho' (wordFunct3_of_funct3Of h3), selectR_extractR_unassigned (.inr ho') h0 h32]

theorem decodeWord_opImm_leftShift_unassigned (ho : opcodeOf w = 0x13) (h3 : funct3Of w = 1)
    (h0 : w.toNat / 2 ^ 26 ≠ 0) : decodeWord w = .error .unassignedSelector := by
  rw [decodeWord_of_opImm (opcode_eq_iff.2 ho)]
  exact selectOpImm_leftShift_unassigned (funct3_eq_iff.2 h3) (mt disc6_immI_eq_iff.1 h0)

theorem decodeWord_opImm_rightShift_unassigned (ho : opcodeOf w = 0x13) (h3 : funct3Of w = 5)
    (h0 : w.toNat / 2 ^ 26 ≠ 0) (h16 : w.toNat / 2 ^ 26 ≠ 16) :
    decodeWord w = .error .unassignedSelector := by
  rw [decodeWord_of_opImm (opcode_eq_iff.2 ho)]
  exact selectOpImm_rightShift_unassigned (funct3_eq_iff.2 h3) (mt disc6_immI_eq_iff.1 h0)
    (mt disc6_immI_eq_iff.1 h16)

theorem decodeWord_opImm32_leftShift_unassigned (ho : opcodeOf w = 0x1B) (h3 : funct3Of w = 1)
    (h0 : funct7Of w ≠ 0) : decodeWord w = .error .unassignedSelector := by
  rw [decodeWord_of_opImm32 (opcode_eq_iff.2 ho) (wordFunct3_of_funct3Of (.inr (.inl h3)))]
  exact selectOpImm32_leftShift_unassigned (funct3_eq_iff.2 h3) (mt disc7_immI_eq_iff.1 h0)

theorem decodeWord_opImm32_rightShift_unassigned (ho : opcodeOf w = 0x1B) (h3 : funct3Of w = 5)
    (h0 : funct7Of w ≠ 0) (h32 : funct7Of w ≠ 32) : decodeWord w = .error .unassignedSelector := by
  rw [decodeWord_of_opImm32 (opcode_eq_iff.2 ho) (wordFunct3_of_funct3Of (.inr (.inr h3)))]
  exact selectOpImm32_rightShift_unassigned (funct3_eq_iff.2 h3) (mt disc7_immI_eq_iff.1 h0)
    (mt disc7_immI_eq_iff.1 h32)

/-- The classifier's rejection is `illegalEncoding`, so another rejection is the selection's. -/
theorem classify_ne_illegal_of_unassigned (h : decodeWord w = .error .unassignedSelector) :
    classify w ≠ .illegal := fun hc => by
  cases h.symm.trans (decodeWord_of_classify_illegal hc)

end Unassigned

/-- Settles O29: in each of the six families the selection, not the classifier, rejects the word. -/
theorem unassignedSelectorsAreIllegal : Obligations.UnassignedSelectorsAreIllegal := by
  unfold Obligations.UnassignedSelectorsAreIllegal
  intro w s hw
  have hd : decodeWord w = .error .unassignedSelector := by
    obtain ⟨ho, h0, h32⟩ | ⟨ho, h3, h0, h32⟩ | ⟨ho, h3, h0⟩ | ⟨ho, h3, h0, h16⟩ | ⟨ho, h3, h0⟩ |
      ⟨ho, h3, h0, h32⟩ := hw
    · exact decodeWord_op_unassigned ho h0 h32
    · exact decodeWord_op32_unassigned ho h3 h0 h32
    · exact decodeWord_opImm_leftShift_unassigned ho h3 h0
    · exact decodeWord_opImm_rightShift_unassigned ho h3 h0 h16
    · exact decodeWord_opImm32_leftShift_unassigned ho h3 h0
    · exact decodeWord_opImm32_rightShift_unassigned ho h3 h0 h32
  exact ⟨classify_ne_illegal_of_unassigned hd, illegalHere_of_decodeWord_error s hd⟩

/-! ## The fetched word (R50, R88) -/

/-- The little-endian read is the sum of the bytes by place (R36). -/
theorem readLE_eq_bytesValue (s : State) (a n : Nat) : s.mem.readLE a n = bytesValue s a n := by
  induction n with
  | zero => rfl
  | succ n ih => rw [Memory.readLE, ih, bytesValue, bytesValue, Finset.sum_range_succ]

/-- A fetch that passes its checks gives the word its 4 bytes make (R50). -/
theorem fetchWord_of_bytesValue {s : State} {w : Word32} (h4 : s.pc.toNat % 4 = 0)
    (hr : Within s s.pc.toNat 4) (hw : w.toNat = bytesValue s s.pc.toNat 4) : fetchWord s = .ok w := by
  rw [fetchWord_ok s h4 ((inRange_iff _ _ _).2 hr), readLE_eq_bytesValue, ← hw]
  exact congrArg _ (BitVec.ofNat_toNat 32 w)

/-- Settles O1: the fetch gives `w`, and its dispatch is `exec` of what it decodes to. -/
theorem stepRunsTheDecodedInstruction : Obligations.StepRunsTheDecodedInstruction := by
  unfold Obligations.StepRunsTheDecodedInstruction
  intro s w i hrun h4 hr hw hd
  have hstep := step_fetched hrun (fetchWord_of_bytesValue h4 hr hw)
  exact ⟨hstep.trans (dispatchWord_instr s hd), hstep⟩

end Sys2Proof.Proofs
end

section
/-! PROOFS. The integer instructions with an immediate (41_integer_immediate.md R94 to R109). A word's fixed
bits fix the fields that select its operation, so the selection is read off the table's pattern; the value an
instruction writes is brought to integer arithmetic by one law per operation, for both widths. -/

namespace Sys2Proof.Proofs

open Sys2Proof Sys2Proof.Machine Sys2Proof.Claims

/-! ## The words (R66, R71, R83)

A row of the table fixes the fields under its mask, and the selection looks at no other field. -/

/-- A field that the mask covers is the pattern's. -/
theorem bits_of_fixed {w mask pattern : Word32} (hw : w &&& mask = pattern) {lo len : Nat}
    (hm : bits mask lo len = BitVec.allOnes len) : bits w lo len = bits pattern lo len := by
  rw [bits] at hm
  rw [← hw, bits, bits, BitVec.extractLsb'_and, hm, BitVec.and_allOnes]

/-- A part of a field is the field at that place. -/
theorem extractLsb'_bits (w : Word32) {lo len l k : Nat} (h : l + k ≤ len) :
    (bits w lo len).extractLsb' l k = bits w (lo + l) k := by
  apply BitVec.eq_of_getLsbD_eq
  intro i hi
  simp [hi, Nat.add_assoc, show l + i < len by omega]

theorem disc6_immI (w : Word32) : disc6 (immI w) = bits w 26 6 := extractLsb'_bits w (by decide)

theorem shamt6_immI (w : Word32) : shamt6 (immI w) = bits w 20 6 := extractLsb'_bits w (by decide)

theorem disc7_immI (w : Word32) : disc7 (immI w) = bits w 25 7 := extractLsb'_bits w (by decide)

theorem shamt5_immI (w : Word32) : shamt5 (immI w) = bits w 20 5 := extractLsb'_bits w (by decide)

/-- The words with the opcode and funct3 of `pattern` are handed, as I records, to the selection `sel`
(R82, R83). -/
def RoutedTo (pattern : Word32) (sel : IRecord → Except DecodeReject Instr) : Prop :=
  ∀ w, opcode w = opcode pattern → funct3 w = funct3 pattern → decodeWord w = sel (extractI w)

section Rows

variable {pattern : Word32} {sel : IRecord → Except DecodeReject Instr}

theorem routedTo_selectOpImm (ho : opcode pattern = opcOpImm) : RoutedTo pattern selectOpImm :=
  fun _ hw _ => decodeWord_of_opImm (hw.trans ho)

theorem routedTo_selectOpImm32 (ho : opcode pattern = opcOpImm32)
    (h3 : wordFunct3 (funct3 pattern) = true) : RoutedTo pattern selectOpImm32 :=
  fun _ hw hf => decodeWord_of_opImm32 (hw.trans ho) (hf ▸ h3)

/-- A routed word gives the selection its own operands beside the pattern's opcode and funct3. -/
theorem RoutedTo.decodeWord_eq (hr : RoutedTo pattern sel) {w : Word32} (ho : opcode w = opcode pattern)
    (h3 : funct3 w = funct3 pattern) :
    decodeWord w = sel ⟨opcode pattern, funct3 pattern, regAt w 15, regAt w 7, immI w⟩ := by
  rw [hr w ho h3, extractI, ho, h3, fieldRd_eq, fieldRs1_eq]

/-- A row with a 12-bit immediate: its opcode and funct3 alone select the operation. -/
theorem RoutedTo.decodesWhen_opI (hr : RoutedTo pattern sel) {mk : Reg → Reg → BitVec 12 → Instr}
    (hsel : ∀ rs1 rd imm, sel ⟨opcode pattern, funct3 pattern, rs1, rd, imm⟩ = .ok (mk rd rs1 imm)) :
    DecodesWhen pattern 0x0000707F (opI mk) := by
  intro w hw
  rw [hr.decodeWord_eq (bits_of_fixed hw (by decide)) (bits_of_fixed hw (by decide)), hsel]
  rfl

/-- A 64-bit shift row: the discriminator selects too (R63). -/
theorem RoutedTo.decodesWhen_opShift6 (hr : RoutedTo pattern sel) {mk : Reg → Reg → BitVec 6 → Instr}
    (hsel : ∀ rs1 rd imm, disc6 imm = disc6 (immI pattern) →
      sel ⟨opcode pattern, funct3 pattern, rs1, rd, imm⟩ = .ok (mk rd rs1 (shamt6 imm))) :
    DecodesWhen pattern 0xFC00707F (opShift6 mk) := by
  intro w hw
  have hd : disc6 (immI w) = disc6 (immI pattern) := by
    rw [disc6_immI, disc6_immI, bits_of_fixed hw (by decide)]
  rw [hr.decodeWord_eq (bits_of_fixed hw (by decide)) (bits_of_fixed hw (by decide)), hsel _ _ _ hd,
    shamt6_immI]
  rfl

/-- A word shift row: the discriminator selects too (R64). -/
theorem RoutedTo.decodesWhen_opShift5 (hr : RoutedTo pattern sel) {mk : Reg → Reg → BitVec 5 → Instr}
    (hsel : ∀ rs1 rd imm, disc7 imm = disc7 (immI pattern) →
      sel ⟨opcode pattern, funct3 pattern, rs1, rd, imm⟩ = .ok (mk rd rs1 (shamt5 imm))) :
    DecodesWhen pattern 0xFE00707F (opShift5 mk) := by
  intro w hw
  have hd : disc7 (immI w) = disc7 (immI pattern) := by
    rw [disc7_immI, disc7_immI, bits_of_fixed hw (by decide)]
  rw [hr.decodeWord_eq (bits_of_fixed hw (by decide)) (bits_of_fixed hw (by decide)), hsel _ _ _ hd,
    shamt5_immI]
  rfl

/-- A U-format row: its opcode alone selects the operation. -/
theorem decodesWhen_opU {mk : Reg → BitVec 32 → Instr}
    (hsel : ∀ w, opcode w = opcode pattern → decodeWord w = .ok (mk (fieldRd w) (immU w))) :
    DecodesWhen pattern 0x0000007F (opU mk) := by
  intro w hw
  rw [hsel w (bits_of_fixed hw (by decide)), fieldRd_eq, immU_eq_append]
  rfl

end Rows

theorem decodeWord_of_lui {w : Word32} (h : opcode w = opcLui) :
    decodeWord w = .ok (.lui (fieldRd w) (immU w)) := by
  simp [decodeWord, classify, h, select, selectU, extractU]

theorem decodeWord_of_auipc {w : Word32} (h : opcode w = opcAuipc) :
    decodeWord w = .ok (.auipc (fieldRd w) (immU w)) := by
  simp [decodeWord, classify, h, select, selectU, extractU]

/-! ## The write of `rd` (R94) -/

/-- An operation that writes `v` to `rd`, with `v` in the form `v'` of a statement. -/
theorem writesRd_of_result {i : Instr} {s : State} {rd : Reg} {v v' : Word}
    (h : exec i s = complete s (writesRd rd v)) (hv : v = v') : WritesRd i s rd v' (s.pc + 4) :=
  hv ▸ writesRd_of_commit h

/-! ## Values in integer arithmetic

`ofInt_toInt_add_toInt` is the law of addition. -/

theorem ofInt_toInt_eq_sext {n : Nat} (v : BitVec n) : ofInt v.toInt = sext v := rfl

theorem toInt_sext {n : Nat} (v : BitVec n) (h : n ≤ 64) : (sext v).toInt = v.toInt :=
  BitVec.toInt_signExtend_of_le h

theorem toNat_sext {n : Nat} (v : BitVec n) : ((sext v).toNat : Int) = v.toInt % 2 ^ 64 := by
  rw [← ofInt_toInt_eq_sext, ofInt, BitVec.toNat_ofInt]
  omega

/-- The sum with an unsigned first operand, such as the pc. -/
theorem ofInt_toNat_add_toInt {n : Nat} (a : Word) (v : BitVec n) :
    ofInt (a.toNat + v.toInt) = a + sext v := by
  rw [ofInt, BitVec.ofInt_add, BitVec.ofInt_natCast, BitVec.ofNat_toNat, BitVec.setWidth_eq]
  rfl

theorem boolWord_decide (p : Prop) [Decidable p] : boolWord (decide p) = flag p := by
  simp [boolWord, flag]

theorem boolWord_lessSigned (a b : Word) : boolWord (lessSigned a b) = flag (a.toInt < b.toInt) :=
  boolWord_decide _

theorem boolWord_lessUnsigned (a b : Word) : boolWord (lessUnsigned a b) = flag (a.toNat < b.toNat) :=
  boolWord_decide _

section Shifts

variable {n : Nat} (v : BitVec n) (k : Nat)

theorem shiftLeft_eq_ofNat : v <<< k = BitVec.ofNat n (v.toNat * 2 ^ k) := by
  rw [← Nat.shiftLeft_eq]
  rfl

theorem ushiftRight_eq_ofNat : v >>> k = BitVec.ofNat n (v.toNat / 2 ^ k) := by
  rw [← Nat.shiftRight_eq_div_pow, ← BitVec.toNat_ushiftRight, BitVec.ofNat_toNat, BitVec.setWidth_eq]

theorem sshiftRight_eq_ofInt : v.sshiftRight k = BitVec.ofInt n (v.toInt / 2 ^ k) := by
  rw [BitVec.sshiftRight_eq, Int.shiftRight_eq_div_pow]
  norm_cast

end Shifts

/-! ### 32-bit results -/

theorem toNat_low32 (a : Word) : (low32 a).toNat = a.toNat % 2 ^ 32 := by
  simp [low32]

theorem low32_ofInt (z : Int) : low32 (ofInt z) = BitVec.ofInt 32 z := by
  apply BitVec.eq_of_toNat_eq
  rw [toNat_low32, ofInt, BitVec.toNat_ofInt, BitVec.toNat_ofInt]
  omega

theorem toInt_low32 (a : Word) : (low32 a).toInt = a.toInt.bmod (2 ^ 32) := by
  rw [← BitVec.toInt_ofInt, ← low32_ofInt, ofInt, BitVec.ofInt_toInt]

theorem sext_ofInt (z : Int) : sext (BitVec.ofInt 32 z) = ofInt32 z := by
  rw [← ofInt_toInt_eq_sext, BitVec.toInt_ofInt]
  rfl

theorem sext_ofNat (k : Nat) : sext (BitVec.ofNat 32 k) = ofInt32 k := by
  rw [← BitVec.ofInt_natCast, sext_ofInt]

theorem sext_low32_ofInt (z : Int) : sext (low32 (ofInt z)) = ofInt32 z := by
  rw [low32_ofInt, sext_ofInt]

theorem sext_low32_shiftLeft (a : Word) (k : Nat) :
    sext (low32 a <<< k) = ofInt32 ((a.toNat % 2 ^ 32 : Nat) * 2 ^ k) := by
  rw [shiftLeft_eq_ofNat, toNat_low32, sext_ofNat]
  norm_cast

theorem sext_low32_ushiftRight (a : Word) (k : Nat) :
    sext (low32 a >>> k) = ofInt32 ((a.toNat % 2 ^ 32 : Nat) / 2 ^ k) := by
  rw [ushiftRight_eq_ofNat, toNat_low32, sext_ofNat]
  norm_cast

/-- The quotient of a 32-bit value is one, so its sign extension is the quotient at 64 bits. -/
theorem sext_low32_sshiftRight (a : Word) (k : Nat) :
    sext ((low32 a).sshiftRight k) = ofInt (a.toInt.bmod (2 ^ 32) / 2 ^ k) := by
  rw [← ofInt_toInt_eq_sext, BitVec.toInt_sshiftRight, toInt_low32, Int.shiftRight_eq_div_pow]
  norm_cast

/-! ## The instructions

A rule is its row of the table, the operation `f` that `exec` applies to the operands, and the form of `f` in
integer arithmetic. -/

section Rules

variable {pattern : Word32} {sel : IRecord → Except DecodeReject Instr}

theorem RoutedTo.immediateRule (hr : RoutedTo pattern sel) (f : Word → BitVec 12 → Word)
    {mk : Reg → Reg → BitVec 12 → Instr} {value : Word → BitVec 12 → Word}
    (hsel : ∀ rs1 rd imm, sel ⟨opcode pattern, funct3 pattern, rs1, rd, imm⟩ = .ok (mk rd rs1 imm))
    (hexec : ∀ rd rs1 imm s, exec (mk rd rs1 imm) s = complete s (writesRd rd (f (readReg s rs1) imm)))
    (hf : ∀ a imm, f a imm = value a imm) : ImmediateRule mk pattern value :=
  ⟨hr.decodesWhen_opI hsel, fun rd rs1 imm s => writesRd_of_result (hexec rd rs1 imm s) (hf _ imm)⟩

theorem RoutedTo.shift6Rule (hr : RoutedTo pattern sel) (f : Word → Nat → Word)
    {mk : Reg → Reg → BitVec 6 → Instr} {value : Word → Nat → Word}
    (hsel : ∀ rs1 rd imm, disc6 imm = disc6 (immI pattern) →
      sel ⟨opcode pattern, funct3 pattern, rs1, rd, imm⟩ = .ok (mk rd rs1 (shamt6 imm)))
    (hexec : ∀ rd rs1 shamt s,
      exec (mk rd rs1 shamt) s = complete s (writesRd rd (f (readReg s rs1) shamt.toNat)))
    (hf : ∀ a k, f a k = value a k) : Shift6Rule mk pattern value :=
  ⟨hr.decodesWhen_opShift6 hsel, fun rd rs1 shamt s => writesRd_of_result (hexec rd rs1 shamt s) (hf _ _)⟩

theorem RoutedTo.shift5Rule (hr : RoutedTo pattern sel) (f : Word → Nat → Word)
    {mk : Reg → Reg → BitVec 5 → Instr} {value : Word → Nat → Word}
    (hsel : ∀ rs1 rd imm, disc7 imm = disc7 (immI pattern) →
      sel ⟨opcode pattern, funct3 pattern, rs1, rd, imm⟩ = .ok (mk rd rs1 (shamt5 imm)))
    (hexec : ∀ rd rs1 shamt s,
      exec (mk rd rs1 shamt) s = complete s (writesRd rd (f (readReg s rs1) shamt.toNat)))
    (hf : ∀ a k, f a k = value a k) : Shift5Rule mk pattern value :=
  ⟨hr.decodesWhen_opShift5 hsel, fun rd rs1 shamt s => writesRd_of_result (hexec rd rs1 shamt s) (hf _ _)⟩

end Rules

/-- Settles O12: six rows told apart by funct3; the sum, comparison or bitwise operation is with the
sign-extended immediate. -/
theorem opImmInstructions : Obligations.OpImmInstructions := by
  unfold Obligations.OpImmInstructions
  refine ⟨
    (routedTo_selectOpImm rfl).immediateRule (· + sext ·) (fun _ _ _ => rfl) (fun _ _ _ _ => rfl) ?add,
    (routedTo_selectOpImm rfl).immediateRule (fun a imm => boolWord (lessSigned a (sext imm)))
      (fun _ _ _ => rfl) (fun _ _ _ _ => rfl) ?lessSigned,
    (routedTo_selectOpImm rfl).immediateRule (fun a imm => boolWord (lessUnsigned a (sext imm)))
      (fun _ _ _ => rfl) (fun _ _ _ _ => rfl) ?lessUnsigned,
    (routedTo_selectOpImm rfl).immediateRule (· ^^^ sext ·) (fun _ _ _ => rfl) (fun _ _ _ _ => rfl) ?xor,
    (routedTo_selectOpImm rfl).immediateRule (· ||| sext ·) (fun _ _ _ => rfl) (fun _ _ _ _ => rfl) ?or,
    (routedTo_selectOpImm rfl).immediateRule (· &&& sext ·) (fun _ _ _ => rfl) (fun _ _ _ _ => rfl) ?and⟩
  case add => exact fun a imm => (ofInt_toInt_add_toInt a imm).symm
  case lessSigned => intro a imm; rw [boolWord_lessSigned, toInt_sext imm (by decide)]
  case lessUnsigned => intro a imm; simp only [boolWord_lessUnsigned, ← toNat_sext, Nat.cast_lt]
  case xor | or | and => intro a imm; simp only [ofInt_toInt_eq_sext]

/-- Settles O13: three rows told apart by funct3 and discriminator; a shift is a product or a quotient by
`2 ^ k`. -/
theorem opImmShiftInstructions : Obligations.OpImmShiftInstructions := by
  unfold Obligations.OpImmShiftInstructions
  refine ⟨
    (routedTo_selectOpImm rfl).shift6Rule (· <<< ·) (fun _ _ _ hd => if_pos hd) (fun _ _ _ _ => rfl)
      shiftLeft_eq_ofNat,
    (routedTo_selectOpImm rfl).shift6Rule (· >>> ·) (fun _ _ _ hd => if_pos hd) (fun _ _ _ _ => rfl)
      ushiftRight_eq_ofNat,
    (routedTo_selectOpImm rfl).shift6Rule BitVec.sshiftRight (fun _ _ _ hd => ?_) (fun _ _ _ _ => rfl)
      sshiftRight_eq_ofInt,
    fun w s ho => ⟨fun h3 h0 => ?_, fun h3 h0 h16 => ?_⟩⟩
  · exact (if_neg (by rw [hd]; decide)).trans (if_pos hd)
  · exact illegalHere_of_decodeWord_error s (decodeWord_opImm_leftShift_unassigned ho h3 h0)
  · exact illegalHere_of_decodeWord_error s (decodeWord_opImm_rightShift_unassigned ho h3 h0 h16)

/-- Settles O14: four rows told apart by funct3 and discriminator; each result is a 32-bit operation on the
low halves, sign-extended. -/
theorem opImm32Instructions : Obligations.OpImm32Instructions := by
  unfold Obligations.OpImm32Instructions
  refine ⟨
    (routedTo_selectOpImm32 rfl rfl).immediateRule (fun a imm => sext (low32 (a + sext imm)))
      (fun _ _ _ => rfl) (fun _ _ _ _ => rfl) (fun a imm => ?_),
    (routedTo_selectOpImm32 rfl rfl).shift5Rule (fun a k => sext (low32 a <<< k))
      (fun _ _ _ hd => if_pos hd) (fun _ _ _ _ => rfl) sext_low32_shiftLeft,
    (routedTo_selectOpImm32 rfl rfl).shift5Rule (fun a k => sext (low32 a >>> k))
      (fun _ _ _ hd => if_pos hd) (fun _ _ _ _ => rfl) sext_low32_ushiftRight,
    (routedTo_selectOpImm32 rfl rfl).shift5Rule (fun a k => sext ((low32 a).sshiftRight k))
      (fun _ _ _ hd => ?_) (fun _ _ _ _ => rfl) sext_low32_sshiftRight,
    fun w s ho => ⟨fun h3 h0 => ?_, fun h3 h0 h32 => ?_⟩⟩
  · rw [← ofInt_toInt_add_toInt, sext_low32_ofInt]
  · exact (if_neg (by rw [hd]; decide)).trans (if_pos hd)
  · exact illegalHere_of_decodeWord_error s (decodeWord_opImm32_leftShift_unassigned ho h3 h0)
  · exact illegalHere_of_decodeWord_error s (decodeWord_opImm32_rightShift_unassigned ho h3 h0 h32)

/-- Settles O15: the opcode names the instruction, and the sign-extended immediate is written, for AUIPC added
to the pc. -/
theorem upperImmediateInstructions : Obligations.UpperImmediateInstructions := by
  unfold Obligations.UpperImmediateInstructions
  refine ⟨⟨decodesWhen_opU fun _ ho => decodeWord_of_lui ho, fun rd imm s => ?_⟩,
    ⟨decodesWhen_opU fun _ ho => decodeWord_of_auipc ho, fun rd imm s => ?_⟩⟩
  · exact writesRd_of_result rfl (ofInt_toInt_eq_sext imm).symm
  · exact writesRd_of_result rfl (ofInt_toNat_add_toInt s.pc imm).symm

end Sys2Proof.Proofs
end

section
/-! PROOFS. The integer instructions on two registers (42_integer_register.md R110 to R125). The opcode, funct3
and funct7 under the mask of a row are all that `selectR` looks at; the values reuse the laws of the
immediate forms, with a difference and the shift amounts of R110 beside them. -/

namespace Sys2Proof.Proofs

open Sys2Proof Sys2Proof.Machine Sys2Proof.Claims

/-! ## The words (R66, R72, R83) -/

/-- The words with the opcode and funct3 of `pattern` are handed, as R records, to `selectR`. -/
def RoutedToSelectR (pattern : Word32) : Prop :=
  ∀ w, opcode w = opcode pattern → funct3 w = funct3 pattern → decodeWord w = selectR (extractR w)

section RegisterRows

variable {pattern : Word32}

theorem routedToSelectR_of_op (ho : opcode pattern = opcOp) : RoutedToSelectR pattern :=
  fun _ hw _ => decodeWord_of_op (hw.trans ho)

theorem routedToSelectR_of_op32 (ho : opcode pattern = opcOp32)
    (h3 : wordFunct3 (funct3 pattern) = true) : RoutedToSelectR pattern :=
  fun _ hw hf => decodeWord_of_op32 (hw.trans ho) (hf ▸ h3)

/-- A row with two register operands: its opcode, funct3 and funct7 select the operation. -/
theorem RoutedToSelectR.decodesWhen_opR (hr : RoutedToSelectR pattern) {mk : Reg → Reg → Reg → Instr}
    (hsel : ∀ rs1 rs2 rd,
      selectR ⟨opcode pattern, funct3 pattern, funct7 pattern, rs1, rs2, rd⟩ = .ok (mk rd rs1 rs2)) :
    DecodesWhen pattern 0xFE00707F (opR mk) := by
  intro w hw
  have ho : opcode w = opcode pattern := bits_of_fixed hw (by decide)
  have h3 : funct3 w = funct3 pattern := bits_of_fixed hw (by decide)
  have h7 : funct7 w = funct7 pattern := bits_of_fixed hw (by decide)
  rw [hr w ho h3, extractR, ho, h3, h7, hsel, fieldRd_eq, fieldRs1_eq, fieldRs2_eq, opR]

/-- A rule is its row of the table, the operation `f` that `exec` applies to the operands, and the form of `f`
in integer arithmetic. The selection and the arm of `exec` are read off by computation. -/
theorem RoutedToSelectR.registerRule (hr : RoutedToSelectR pattern) (f : Word → Word → Word)
    {mk : Reg → Reg → Reg → Instr} {value : Word → Word → Word} (hf : ∀ a b, f a b = value a b)
    (hsel : ∀ rs1 rs2 rd,
      selectR ⟨opcode pattern, funct3 pattern, funct7 pattern, rs1, rs2, rd⟩ = .ok (mk rd rs1 rs2) := by
        intros; rfl)
    (hexec : ∀ rd rs1 rs2 s,
      exec (mk rd rs1 rs2) s = complete s (writesRd rd (f (readReg s rs1) (readReg s rs2))) := by
        intros; rfl) : RegisterRule mk pattern value :=
  ⟨hr.decodesWhen_opR hsel, fun rd rs1 rs2 s => writesRd_of_result (hexec rd rs1 rs2 s) (hf _ _)⟩

end RegisterRows

/-! ## Values in integer arithmetic -/

section RegisterValues

variable (a b : Word)

theorem add_eq_ofInt : a + b = ofInt (a.toInt + b.toInt) := by
  rw [ofInt_toInt_add_toInt, sext, BitVec.signExtend_eq]

theorem sub_eq_ofInt : a - b = ofInt (a.toInt - b.toInt) := by
  apply BitVec.eq_of_toInt_eq
  rw [BitVec.toInt_sub, ofInt, BitVec.toInt_ofInt]

/-- The amount of a 64-bit register shift (R110). -/
theorem toNat_low6 : (b.extractLsb' 0 6).toNat = b.toNat % 64 :=
  BitVec.extractLsb'_toNat ..

/-- The amount of a word register shift (R110). -/
theorem toNat_low5 : (b.extractLsb' 0 5).toNat = b.toNat % 32 :=
  BitVec.extractLsb'_toNat ..

end RegisterValues

/-! ## The instructions -/

/-- Settles O16: ten rows told apart by funct3 and funct7; a shift is a product or a quotient by the power of 2
of its amount. -/
theorem opInstructions : Obligations.OpInstructions := by
  unfold Obligations.OpInstructions
  refine ⟨
    (routedToSelectR_of_op rfl).registerRule (· + ·) add_eq_ofInt,
    (routedToSelectR_of_op rfl).registerRule (· - ·) sub_eq_ofInt,
    (routedToSelectR_of_op rfl).registerRule (fun a b => a <<< (b.extractLsb' 0 6).toNat) ?sll,
    (routedToSelectR_of_op rfl).registerRule (fun a b => boolWord (lessSigned a b)) boolWord_lessSigned,
    (routedToSelectR_of_op rfl).registerRule (fun a b => boolWord (lessUnsigned a b)) boolWord_lessUnsigned,
    (routedToSelectR_of_op rfl).registerRule (· ^^^ ·) (fun _ _ => rfl),
    (routedToSelectR_of_op rfl).registerRule (fun a b => a >>> (b.extractLsb' 0 6).toNat) ?srl,
    (routedToSelectR_of_op rfl).registerRule (fun a b => a.sshiftRight (b.extractLsb' 0 6).toNat) ?sra,
    (routedToSelectR_of_op rfl).registerRule (· ||| ·) (fun _ _ => rfl),
    (routedToSelectR_of_op rfl).registerRule (· &&& ·) (fun _ _ => rfl)⟩
  case sll => intro a b; rw [shiftLeft_eq_ofNat, toNat_low6]
  case srl => intro a b; rw [ushiftRight_eq_ofNat, toNat_low6]
  case sra => intro a b; rw [sshiftRight_eq_ofInt, toNat_low6, ofInt]

/-- Settles O17: five rows told apart by funct3 and funct7; each result is a 32-bit operation on the low halves,
sign-extended. -/
theorem op32Instructions : Obligations.Op32Instructions := by
  unfold Obligations.Op32Instructions
  refine ⟨
    (routedToSelectR_of_op32 rfl rfl).registerRule (fun a b => sext (low32 (a + b))) ?addw,
    (routedToSelectR_of_op32 rfl rfl).registerRule (fun a b => sext (low32 (a - b))) ?subw,
    (routedToSelectR_of_op32 rfl rfl).registerRule
      (fun a b => sext (low32 a <<< (b.extractLsb' 0 5).toNat)) ?sllw,
    (routedToSelectR_of_op32 rfl rfl).registerRule
      (fun a b => sext (low32 a >>> (b.extractLsb' 0 5).toNat)) ?srlw,
    (routedToSelectR_of_op32 rfl rfl).registerRule
      (fun a b => sext ((low32 a).sshiftRight (b.extractLsb' 0 5).toNat)) ?sraw⟩
  case addw => intro a b; rw [add_eq_ofInt, sext_low32_ofInt]
  case subw => intro a b; rw [sub_eq_ofInt, sext_low32_ofInt]
  case sllw => intro a b; rw [sext_low32_shiftLeft, toNat_low5]
  case srlw => intro a b; rw [sext_low32_ushiftRight, toNat_low5]
  case sraw => intro a b; rw [sext_low32_sshiftRight, toNat_low5]

end Sys2Proof.Proofs
end

section
/-! PROOFS. Control transfer (43_control_transfer.md R126 to R135). JAL and JALR share one jump, the six branches
one rule; both check the target alone, so a target out of range shows in the fetch of the next step. -/

namespace Sys2Proof.Proofs

open Sys2Proof Sys2Proof.Machine Sys2Proof.Claims

/-! ## The words (R69, R73, R83) -/

theorem decodeWord_of_jal {w : Word32} (h : opcode w = opcJal) :
    decodeWord w = .ok (.jal (fieldRd w) (immJ w)) := by
  simp [decodeWord, classify, h, select, selectJ, extractJ]

theorem decodeWord_of_jalr {w : Word32} (h : opcode w = opcJalr) (h3 : funct3 w = 0#3) :
    decodeWord w = selectI (extractI w) := by
  simp [decodeWord, classify, h, h3, select]

theorem decodeWord_of_branch {w : Word32} (h : opcode w = opcBranch)
    (h3 : funct3 w ≠ 2#3 ∧ funct3 w ≠ 3#3) : decodeWord w = selectB (extractB w) := by
  simp [decodeWord, classify, h, h3, select]

theorem routedTo_selectI {pattern : Word32} (ho : opcode pattern = opcJalr) (h3 : funct3 pattern = 0#3) :
    RoutedTo pattern selectI :=
  fun _ hw hf => decodeWord_of_jalr (hw.trans ho) (hf.trans h3)

/-- The J-format row: its opcode alone selects the operation. -/
theorem decodesWhen_jal : DecodesWhen 0x0000006F 0x0000007F (opJ .jal) := by
  intro w hw
  have ho : opcode w = opcJal := bits_of_fixed hw (by decide)
  rw [decodeWord_of_jal ho, fieldRd_eq, immJ_eq_append]
  rfl

/-- A B-format row: its opcode and funct3 select the operation. -/
theorem decodesWhen_opB {pattern : Word32} {mk : Reg → Reg → BitVec 13 → Instr}
    (ho : opcode pattern = opcBranch) (h3 : funct3 pattern ≠ 2#3 ∧ funct3 pattern ≠ 3#3)
    (hsel : ∀ rs1 rs2 imm,
      selectB ⟨opcode pattern, funct3 pattern, rs1, rs2, imm⟩ = .ok (mk rs1 rs2 imm)) :
    DecodesWhen pattern 0x0000707F (opB mk) := by
  intro w hw
  have hwo : opcode w = opcode pattern := bits_of_fixed hw (by decide)
  have hw3 : funct3 w = funct3 pattern := bits_of_fixed hw (by decide)
  rw [decodeWord_of_branch (hwo.trans ho) (hw3 ▸ h3), extractB, hwo, hw3, hsel, fieldRs1_eq, fieldRs2_eq,
    immB_eq_append]
  rfl

/-! ## The targets (R126, R127) -/

theorem pcRelative_eq_ofInt {n : Nat} (s : State) (imm : BitVec n) :
    pcRelative s imm = ofInt (s.pc.toNat + imm.toInt) :=
  (ofInt_toNat_add_toInt s.pc imm).symm

/-- Clearing bit 0 halves and doubles. -/
theorem and_not_one_eq_ofNat (a : Word) : a &&& ~~~1 = BitVec.ofNat 64 (a.toNat / 2 * 2) := by
  have hmask : ~~~(1 : Word) = BitVec.allOnes 64 <<< 1 := by decide
  rw [hmask, ← BitVec.shiftLeft_ushiftRight, shiftLeft_eq_ofNat, BitVec.toNat_ushiftRight,
    Nat.shiftRight_eq_div_pow, pow_one]

theorem ofInt_and_not_one (z : Int) : ofInt z &&& ~~~1 = ofInt (z / 2 * 2) := by
  apply BitVec.eq_of_toNat_eq
  simp only [and_not_one_eq_ofNat, ofInt, BitVec.toNat_ofNat, BitVec.toNat_ofInt]
  omega

theorem jalrTarget_eq_ofInt (s : State) (rs1 : Reg) (imm : BitVec 12) :
    jalrTarget s rs1 imm = ofInt (((readReg s rs1).toInt + imm.toInt) / 2 * 2) := by
  rw [jalrTarget, ← ofInt_toInt_add_toInt, ofInt_and_not_one]

theorem toInt_even_of_evenOffset {n : Nat} {imm : BitVec n} (hn : 1 ≤ n) (h : evenOffset imm = true) :
    imm.toInt % 2 = 0 :=
  Int.emod_eq_zero_of_dvd (two_pow_dvd_toInt hn (Nat.dvd_of_mod_eq_zero (by simpa [evenOffset] using h)))

/-- From an aligned pc, the targets at even offsets that fault (R128, R130). -/
theorem target_misaligned_iff {n : Nat} {pc : Word} {imm : BitVec n} (hn : 1 ≤ n) (hpc : pc.toNat % 4 = 0)
    (himm : evenOffset imm = true) :
    (ofInt (pc.toNat + imm.toInt)).toNat % 4 ≠ 0 ↔ imm.toInt % 4 = 2 := by
  have heven := toInt_even_of_evenOffset hn himm
  rw [ofInt, BitVec.toNat_ofInt]
  omega

/-! ## What a jump and a branch answer -/

theorem checkTarget_of_aligned (acc : Access) {a : Word} (h : a.toNat % 4 = 0) : checkTarget acc a = none :=
  if_neg (not_not_intro h)

theorem checkTarget_of_misaligned (acc : Access) {a : Word} (h : a.toNat % 4 ≠ 0) :
    checkTarget acc a = some ⟨.alignmentFault, acc, a⟩ :=
  if_pos h

section Handlers

variable {i : Instr} {s : State} {rd : Reg} {a : Word} {imm : BitVec 13}

/-- A commit that writes `rd` and no memory (R87, R89). -/
theorem writesRd_of_commit_advance {v : Word} {adv : Advance}
    (h : exec i s = .next (commit { reg := some (rd, v), advance := adv } s)) :
    WritesRd i s rd v (nextPc s.pc adv) := by
  refine ⟨_, h, ⟨?_, fun r hr => ?_⟩, rfl, commit_status _ s,
    memoryKept_of_mem_eq (commit_mem_of_no_store rfl s)⟩
  · simp [readReg_commit]
  · simp [readReg_commit, hr]

/-- A commit that writes neither a register nor memory (R87, R89). -/
theorem movesPc_of_commit {adv : Advance} (h : exec i s = .next (commit { advance := adv } s)) :
    MovesPc i s (nextPc s.pc adv) :=
  ⟨_, h, fun _ => rfl, rfl, rfl, memoryKept_of_mem_eq rfl⟩

theorem writesRd_of_jumpTo (h : exec i s = complete s (jumpTo rd a s)) (ha : a.toNat % 4 = 0) :
    WritesRd i s rd (s.pc + 4) a := by
  rw [jumpTo, checkTarget_of_aligned _ ha] at h
  exact writesRd_of_commit_advance h

theorem traps_of_jumpTo (h : exec i s = complete s (jumpTo rd a s)) (ha : a.toNat % 4 ≠ 0) :
    Traps i s .alignmentFault .jump a := by
  rw [jumpTo, checkTarget_of_misaligned _ ha] at h
  exact h

theorem movesPc_of_branchIf_false (h : exec i s = complete s (branchIf false imm s)) :
    MovesPc i s (s.pc + 4) :=
  movesPc_of_commit h

theorem movesPc_of_branchIf_true (h : exec i s = complete s (branchIf true imm s))
    (ha : (pcRelative s imm).toNat % 4 = 0) : MovesPc i s (pcRelative s imm) := by
  rw [branchIf, if_pos rfl, checkTarget_of_aligned _ ha] at h
  exact movesPc_of_commit h

theorem traps_of_branchIf_true (h : exec i s = complete s (branchIf true imm s))
    (ha : (pcRelative s imm).toNat % 4 ≠ 0) : Traps i s .alignmentFault .branch (pcRelative s imm) := by
  rw [branchIf, if_pos rfl, checkTarget_of_misaligned _ ha] at h
  exact h

end Handlers

/-! ## The step after a transfer (R127, R165) -/

theorem within_of_rangeKept {s t : State} (h : RangeKept s t) (b n : Nat) : Within t b n ↔ Within s b n := by
  obtain ⟨hbase, hsize⟩ := h
  rw [Within, Within, hbase, hsize]

theorem step_of_pc_outOfRange {s : State} (hrun : s.status = .runnable) (h4 : s.pc.toNat % 4 = 0)
    (hr : ¬ Within s s.pc.toNat 4) : step s = .next (trapOf s .fetchFault .fetch s.pc) := by
  have hout : s.mem.inRange s.pc.toNat 4 = false := by rwa [← Bool.not_eq_true, inRange_iff]
  exact step_fetch_fails hrun (memRead_of_check_some (checkAccess_outOfRange .fetch _ _ _ h4 hout))

/-- A completed instruction moves the pc by 4 or to an aligned target (R23, R127). -/
theorem exec_pc_cases {i : Instr} {s t : State} (h : exec i s = .next t) (hrun : t.status = .runnable) :
    t.pc = s.pc + 4 ∨ t.pc.toNat % 4 = 0 := by
  obtain ⟨H, hH, hexec⟩ := exec_form i
  rw [hexec] at h
  obtain ⟨e, he, rfl⟩ | ⟨x, -, rfl⟩ := complete_cases h
  · rw [commit_pc]
    cases ha : e.advance with
    | default => exact .inl rfl
    | redirected a => exact .inr (hH.target_aligned he ha)
  · cases hrun

/-! ## The instructions -/

/-- Settles O18: the opcode names JAL, and its jump to `pc + imm` passes the check of its target or takes the
fault. -/
theorem jumpAndLink : Obligations.JumpAndLink := by
  unfold Obligations.JumpAndLink
  refine ⟨decodesWhen_jal, ?_⟩
  rintro rd imm s _ rfl
  have hexec : exec (.jal rd imm) s = complete s (jumpTo rd (ofInt (s.pc.toNat + imm.toInt)) s) := by
    rw [← pcRelative_eq_ofInt]
    rfl
  exact ⟨writesRd_of_jumpTo hexec, traps_of_jumpTo hexec, target_misaligned_iff (by decide)⟩

/-- Settles O19: a jump to the sum with bit 0 cleared; it keeps the range, so the fetch at a target outside it
fails. -/
theorem jumpAndLinkRegister : Obligations.JumpAndLinkRegister := by
  unfold Obligations.JumpAndLinkRegister
  refine ⟨(routedTo_selectI rfl rfl).decodesWhen_opI fun _ _ _ => rfl, ?_⟩
  intro rd rs1 imm s target htarget
  have hexec : exec (.jalr rd rs1 imm) s = complete s (jumpTo rd target s) := by
    rw [htarget, ← jalrTarget_eq_ofInt]
    rfl
  refine ⟨writesRd_of_jumpTo hexec, traps_of_jumpTo hexec, fun h4 hrun hr t ht => ?_⟩
  obtain ⟨u, hu, -, rfl, hst, hrange, -⟩ := writesRd_of_jumpTo hexec h4
  obtain rfl := Host.Outcome.next.inj (hu.symm.trans ht)
  exact step_of_pc_outOfRange (hst.trans hrun) h4 (mt (within_of_rangeKept hrange _ _).1 hr)

/-- A branch rule is its row of the table, the decision `d` of its arm of `exec`, and the relation `taken` that
`d` decides. The selection and the arm of `exec` are read off by computation. -/
theorem branchRule {pattern : Word32} {mk : Reg → Reg → BitVec 13 → Instr} {taken : Word → Word → Prop}
    (ho : opcode pattern = opcBranch) (h3 : funct3 pattern ≠ 2#3 ∧ funct3 pattern ≠ 3#3)
    (d : Word → Word → Bool) (hd : ∀ a b, d a b = true ↔ taken a b)
    (hsel : ∀ rs1 rs2 imm,
      selectB ⟨opcode pattern, funct3 pattern, rs1, rs2, imm⟩ = .ok (mk rs1 rs2 imm) := by intros; rfl)
    (hexec : ∀ rs1 rs2 imm s,
      exec (mk rs1 rs2 imm) s = complete s (branchIf (d (readReg s rs1) (readReg s rs2)) imm s) := by
        intros; rfl) : BranchRule mk pattern taken := by
  refine ⟨decodesWhen_opB ho h3 hsel, ?_⟩
  rintro rs1 rs2 imm s _ rfl
  have h := hexec rs1 rs2 imm s
  refine ⟨fun hn => ?_, fun ht => ?_, target_misaligned_iff (by decide)⟩
  · rw [Bool.eq_false_iff.2 (mt (hd _ _).1 hn)] at h
    exact movesPc_of_branchIf_false h
  · rw [(hd _ _).2 ht] at h
    rw [← pcRelative_eq_ofInt]
    exact ⟨movesPc_of_branchIf_true h, traps_of_branchIf_true h⟩

/-- Settles O20: six rows told apart by funct3, each with its comparison of the two registers. -/
theorem conditionalBranches : Obligations.ConditionalBranches := by
  unfold Obligations.ConditionalBranches
  refine ⟨
    branchRule rfl (by decide) (· == ·) ?beq,
    branchRule rfl (by decide) (· != ·) ?bne,
    branchRule rfl (by decide) lessSigned (fun _ _ => decide_eq_true_iff),
    branchRule rfl (by decide) (fun a b => !lessSigned a b) ?bge,
    branchRule rfl (by decide) lessUnsigned (fun _ _ => decide_eq_true_iff),
    branchRule rfl (by decide) (fun a b => !lessUnsigned a b) ?bgeu⟩
  case beq => intro a b; rw [beq_iff_eq, BitVec.toNat_inj]
  case bne => intro a b; rw [bne_iff_ne, Ne, Ne, BitVec.toNat_inj]
  case bge => intro a b; simp [lessSigned]
  case bgeu => intro a b; simp [lessUnsigned]

/-- Settles O21: a pc that is not `pc + 4` is a checked target; the instruction kept the range, so the fetch
there fails. -/
theorem outOfRangeTargetFaultsOnTheNextStep : Obligations.OutOfRangeTargetFaultsOnTheNextStep := by
  unfold Obligations.OutOfRangeTargetFaultsOnTheNextStep
  intro i s t _ _ h hrun hne hr
  have h4 := (exec_pc_cases h hrun).resolve_left hne
  obtain ⟨hrange, -⟩ := onlyStoresChangeMemory i s t h
  exact ⟨h4, step_of_pc_outOfRange hrun h4 (mt (within_of_rangeKept hrange _ _).1 hr)⟩

end Sys2Proof.Proofs
end

section
/-! PROOFS. Loads and stores (44_load_store.md R136 to R149). All eleven check alignment, then range, and take
their fault from that one check; a load that passes extends the bytes it reads, a store that passes writes the
low bytes of its register. -/

namespace Sys2Proof.Proofs

open Sys2Proof Sys2Proof.Machine Sys2Proof.Claims

/-! ## The words (R67, R68, R83) -/

theorem decodeWord_of_load {w : Word32} (h : opcode w = opcLoad) (h3 : funct3 w ≠ 7#3) :
    decodeWord w = selectLoad (extractI w) := by
  simp [decodeWord, classify, h, h3, select, selectI, extractI]

theorem decodeWord_of_store {w : Word32} (h : opcode w = opcStore) (h3 : (funct3 w).toNat ≤ 3) :
    decodeWord w = selectS (extractS w) := by
  simp [decodeWord, classify, h, h3, select]

theorem routedTo_selectLoad {pattern : Word32} (ho : opcode pattern = opcLoad) (h3 : funct3 pattern ≠ 7#3) :
    RoutedTo pattern selectLoad :=
  fun _ hw hf => decodeWord_of_load (hw.trans ho) (hf ▸ h3)

/-- An S-format row: its opcode and funct3 select the operation. -/
theorem decodesWhen_opS {pattern : Word32} {mk : Reg → Reg → BitVec 12 → Instr}
    (ho : opcode pattern = opcStore) (h3 : (funct3 pattern).toNat ≤ 3)
    (hsel : ∀ rs1 rs2 imm,
      selectS ⟨opcode pattern, funct3 pattern, rs1, rs2, imm⟩ = .ok (mk rs2 rs1 imm)) :
    DecodesWhen pattern 0x0000707F (opS mk) := by
  intro w hw
  have hwo : opcode w = opcode pattern := bits_of_fixed hw (by decide)
  have hw3 : funct3 w = funct3 pattern := bits_of_fixed hw (by decide)
  rw [decodeWord_of_store (hwo.trans ho) (hw3 ▸ h3), extractS, hwo, hw3, hsel, fieldRs1_eq, fieldRs2_eq,
    immS_eq_append]
  rfl

/-! ## Accesses that fail their checks (R40, R42, R149) -/

section Faults

variable {s : State} {n : Nat} {rs1 rs2 rd : Reg} {imm : BitVec 12} {i : Instr} {a : Word} {x : Raise}

theorem traps_of_load {extend : BitVec (8 * n) → Word}
    (h : exec i s = complete s (load n extend rd rs1 imm s))
    (hx : checkAccess .load (eaOf s rs1 imm) n s.mem = some x) : Traps i s x.kind x.access x.addr := by
  rw [load, effectiveAddress_eq_eaOf, memRead_of_check_some hx] at h
  exact h

theorem traps_of_store (h : exec i s = complete s (store n rs2 rs1 imm s))
    (hx : checkAccess .store (eaOf s rs1 imm) n s.mem = some x) : Traps i s x.kind x.access x.addr := by
  rw [store, effectiveAddress_eq_eaOf, hx] at h
  exact h

theorem checkAccess_of_not_within (acc : Access) (ha : a.toNat % n = 0) (hr : ¬ Within s a.toNat n) :
    checkAccess acc a n s.mem = some ⟨rangeKind acc, acc, a⟩ := by
  refine checkAccess_outOfRange acc a n s.mem ha ?_
  rwa [← Bool.not_eq_true, inRange_iff]

end Faults

/-! ## The value loaded (R138 to R144) -/

theorem sext_ofNat_eq_bmod (n v : Nat) : sext (BitVec.ofNat n v) = ofInt ((v : Int).bmod (2 ^ n)) := by
  rw [← ofInt_toInt_eq_sext, BitVec.toInt_ofNat']

theorem zext_ofNat_of_lt {n v : Nat} (h : v < 2 ^ n) : zext (BitVec.ofNat n v) = BitVec.ofNat 64 v := by
  rw [zext, ← BitVec.ofNat_toNat, BitVec.toNat_ofNat, Nat.mod_eq_of_lt h]

theorem bytesValue_lt (s : State) (a n : Nat) : bytesValue s a n < 2 ^ (8 * n) :=
  readLE_eq_bytesValue s a n ▸ readLE_lt s.mem a n

/-! ## The bytes stored (R145 to R148) -/

/-- The store of an instruction that passes its checks, byte by byte (R37, R44). -/
theorem stores_of_afterStore {i : Instr} {s : State} {a v : Word} {n : Nat} (hm : s.mem.wf)
    (hr : Within s a.toNat n) (h : exec i s = .next (afterStore s a n v)) : Stores i s a.toNat n v := by
  refine ⟨_, h, fun _ => rfl, rfl, rfl, ⟨writeLE_base .., writeLE_size ..⟩, fun k hk => ?_,
    readByte_writeLE_outside s.mem a.toNat v n⟩
  rw [readByte_afterStore hm hr hk, BitVec.extractLsb'_toNat, Nat.shiftRight_eq_div_pow]

/-! ## The instructions -/

/-- A load rule is its row of the table, its width and extension in `exec`, and the form of the extension of
an `n`-byte value. The selection and the arm of `exec` are read off by computation. -/
theorem loadRule {pattern : Word32} {mk : Reg → Reg → BitVec 12 → Instr} {n : Nat} {value : Nat → Word}
    (ho : opcode pattern = opcLoad) (h3 : funct3 pattern ≠ 7#3) (extend : BitVec (8 * n) → Word)
    (hvalue : ∀ v, v < 2 ^ (8 * n) → extend (BitVec.ofNat (8 * n) v) = value v)
    (hsel : ∀ rs1 rd imm,
      selectLoad ⟨opcode pattern, funct3 pattern, rs1, rd, imm⟩ = .ok (mk rd rs1 imm) := by intros; rfl)
    (hexec : ∀ rd rs1 imm s, exec (mk rd rs1 imm) s = complete s (load n extend rd rs1 imm s) := by
      intros; rfl) : LoadRule mk pattern n value := by
  refine ⟨(routedTo_selectLoad ho h3).decodesWhen_opI hsel, ?_⟩
  rintro rd rs1 imm s _ rfl
  have h := hexec rd rs1 imm s
  refine ⟨fun ha => traps_of_load h (checkAccess_misaligned _ _ _ _ ha),
    fun ha hr => traps_of_load h (checkAccess_of_not_within _ ha hr), fun ha hr => ?_⟩
  rw [← hvalue _ (bytesValue_lt ..), ← readLE_eq_bytesValue]
  exact writesRd_of_load h ha hr

/-- A store rule is its row of the table and its width in `exec`. The selection and the arm of `exec` are read
off by computation. -/
theorem storeRule {pattern : Word32} {mk : Reg → Reg → BitVec 12 → Instr} {n : Nat}
    (ho : opcode pattern = opcStore) (h3 : (funct3 pattern).toNat ≤ 3)
    (hsel : ∀ rs1 rs2 imm,
      selectS ⟨opcode pattern, funct3 pattern, rs1, rs2, imm⟩ = .ok (mk rs2 rs1 imm) := by intros; rfl)
    (hexec : ∀ rs2 rs1 imm s, exec (mk rs2 rs1 imm) s = complete s (store n rs2 rs1 imm s) := by
      intros; rfl) : StoreRule mk pattern n := by
  refine ⟨decodesWhen_opS ho h3 hsel, ?_⟩
  rintro rs2 rs1 imm s _ rfl
  have h := hexec rs2 rs1 imm s
  exact ⟨fun ha => traps_of_store h (checkAccess_misaligned _ _ _ _ ha),
    fun ha hr => traps_of_store h (checkAccess_of_not_within _ ha hr),
    fun hm ha hr => stores_of_afterStore hm hr (exec_store_of_within h ha hr)⟩

/-- Settles O22: seven rows told apart by funct3, each with its width, and the sign or zero extension of the
value of its bytes. -/
theorem loads : Obligations.Loads := by
  unfold Obligations.Loads
  exact ⟨
    loadRule rfl (by decide) sext fun v _ => sext_ofNat_eq_bmod 8 v,
    loadRule rfl (by decide) sext fun v _ => sext_ofNat_eq_bmod 16 v,
    loadRule rfl (by decide) sext fun v _ => sext_ofNat_eq_bmod 32 v,
    loadRule rfl (by decide) zext fun _ => zext_ofNat_of_lt,
    loadRule rfl (by decide) zext fun _ => zext_ofNat_of_lt,
    loadRule rfl (by decide) zext fun _ => zext_ofNat_of_lt,
    loadRule rfl (by decide) zext fun _ => zext_ofNat_of_lt⟩

/-- Settles O23: four rows told apart by funct3, each with its width. -/
theorem storeInstructions : Obligations.StoreInstructions := by
  unfold Obligations.StoreInstructions
  exact ⟨
    storeRule rfl (by decide),
    storeRule rfl (by decide),
    storeRule rfl (by decide),
    storeRule rfl (by decide)⟩

end Sys2Proof.Proofs
end

section
/-! PROOFS. The inert MISC-MEM and SYSTEM words (45_inert_fence_system.md R150 to R161). Such a word decodes to
the name its row gives it, and every name either opcode gives has the one arm that runs `inert`. -/

namespace Sys2Proof.Proofs

open Sys2Proof Sys2Proof.Machine Sys2Proof.Claims

/-! ## The step without effects (R150) -/

/-- `i` has no effects to commit, from any state. -/
def RunsInert (i : Instr) : Prop := ∀ s, exec i s = complete s inert

theorem RunsInert.exec_eq {i : Instr} (hi : RunsInert i) (s : State) :
    exec i s = .next { s with pc := s.pc + 4 } :=
  hi s

theorem RunsInert.movesPc {i : Instr} (hi : RunsInert i) (s : State) : MovesPc i s (s.pc + 4) :=
  movesPc_of_commit (hi s)

theorem runsInert_nameMiscMem (w : Word32) : RunsInert (nameMiscMem w) := by
  intro s
  unfold nameMiscMem
  split <;> rfl

theorem runsInert_nameSystem (w : Word32) : RunsInert (nameSystem w) := by
  intro s
  unfold nameSystem
  split
  · split_ifs <;> rfl
  all_goals rfl

/-! ## The words (R75, R82) -/

section Words

variable {w : Word32}

theorem classify_inert (h : opcode w = opcMiscMem ∨ opcode w = opcSystem) :
    classify w = .instr (.inert w) := by
  obtain h | h := h <;> simp [classify, h]

theorem decodeWord_of_miscMem (h : opcode w = opcMiscMem) : decodeWord w = .ok (nameMiscMem w) := by
  simp [decodeWord, classify_inert (.inl h), select, selectInert, h]

theorem decodeWord_of_system (h : opcode w = opcSystem) : decodeWord w = .ok (nameSystem w) := by
  simp [decodeWord, classify_inert (.inr h), select, selectInert, h]

/-- A word of either opcode decodes to an instruction without effects. -/
theorem decodeWord_runsInert (h : opcode w = opcMiscMem ∨ opcode w = opcSystem) :
    ∃ i, decodeWord w = .ok i ∧ RunsInert i := by
  obtain h | h := h
  · exact ⟨_, decodeWord_of_miscMem h, runsInert_nameMiscMem w⟩
  · exact ⟨_, decodeWord_of_system h, runsInert_nameSystem w⟩

/-- FENCE and FENCE.I are the only named MISC-MEM rows. -/
theorem nameMiscMem_other (h0 : funct3 w ≠ 0#3) (h1 : funct3 w ≠ 1#3) :
    nameMiscMem w = .miscMemOther w := by
  unfold nameMiscMem
  split
  · exact absurd ‹_› h0
  · exact absurd ‹_› h1
  · rfl

/-- No named SYSTEM row has funct3 100. -/
theorem nameSystem_funct3_four (h : funct3 w = 4#3) : nameSystem w = .systemOther w := by
  rw [nameSystem, h]
  rfl

/-- Under funct3 000 only the two words of ECALL and EBREAK are named. -/
theorem nameSystem_funct3_zero (h : funct3 w = 0#3) (hc : w ≠ 0x00000073) (hb : w ≠ 0x00100073) :
    nameSystem w = .systemOther w := by
  rw [nameSystem, h]
  exact (if_neg hc).trans (if_neg hb)

end Words

/-! ## The rows of the table -/

/-- A row that its opcode and funct3 fix: the opcode gives the naming function, and funct3 alone decides what
it names. -/
theorem inertRule_of_name {pattern : Word32} {name i : Word32 → Instr}
    (hdec : ∀ w, opcode w = opcode pattern → decodeWord w = .ok (name w))
    (hname : ∀ w, funct3 w = funct3 pattern → name w = i w) (hexec : ∀ w, RunsInert (i w)) :
    InertRule i pattern 0x0000707F := by
  refine ⟨fun w hw => ?_, fun w => (hexec w).movesPc⟩
  rw [hdec w (bits_of_fixed hw (by decide)), hname w (bits_of_fixed hw (by decide))]

/-- A MISC-MEM row. The name and the arm of `exec` are read off by computation. -/
theorem miscMemRule {pattern : Word32} {i : Word32 → Instr} (ho : opcode pattern = opcMiscMem)
    (hname : ∀ w, funct3 w = funct3 pattern → nameMiscMem w = i w := by
      intro w h; rw [nameMiscMem, h, fieldRd_eq, fieldRs1_eq]; rfl)
    (hexec : ∀ w, RunsInert (i w) := by intros _ _; rfl) : InertRule i pattern 0x0000707F :=
  inertRule_of_name (fun _ hw => decodeWord_of_miscMem (hw.trans ho)) hname hexec

/-- A CSR row. The name and the arm of `exec` are read off by computation. -/
theorem csrRule {pattern : Word32} {i : Word32 → Instr} (ho : opcode pattern = opcSystem)
    (hname : ∀ w, funct3 w = funct3 pattern → nameSystem w = i w := by
      intro w h; rw [nameSystem, h, fieldRd_eq, fieldRs1_eq]; rfl)
    (hexec : ∀ w, RunsInert (i w) := by intros _ _; rfl) : InertRule i pattern 0x0000707F :=
  inertRule_of_name (fun _ hw => decodeWord_of_system (hw.trans ho)) hname hexec

/-- A row whose mask fixes every bit is one word. -/
theorem decodesWhen_word {pattern : Word32} {i : Instr} (h : decodeWord pattern = .ok i) :
    DecodesWhen pattern 0xFFFFFFFF fun _ => i := by
  rintro w rfl
  rwa [show (0xFFFFFFFF : Word32) = BitVec.allOnes 32 from rfl, BitVec.and_allOnes] at h

/-! ## The obligations -/

/-- Settles O26: two MISC-MEM rows and six CSR rows told apart by funct3, and the two words ECALL and EBREAK;
all ten run the step without effects. -/
theorem inertInstructions : Obligations.InertInstructions := by
  unfold Obligations.InertInstructions
  exact ⟨
    miscMemRule rfl,
    miscMemRule rfl,
    ⟨decodesWhen_word (by decide), fun _ => RunsInert.movesPc fun _ => rfl⟩,
    ⟨decodesWhen_word (by decide), fun _ => RunsInert.movesPc fun _ => rfl⟩,
    csrRule rfl,
    csrRule rfl,
    csrRule rfl,
    csrRule rfl,
    csrRule rfl,
    csrRule rfl⟩

/-- Settles O27: both opcodes are classified inert, and whatever name the word then gets, named row or
catch-all, runs the step without effects. -/
theorem everyFenceOrSystemWordIsInert : Obligations.EveryFenceOrSystemWordIsInert := by
  unfold Obligations.EveryFenceOrSystemWordIsInert
  refine ⟨fun w s h => ?inert, fun w h h0 h1 => ?miscMem, fun w h hf => ?system,
    fun w s => ⟨RunsInert.movesPc (fun _ => rfl) s, RunsInert.movesPc (fun _ => rfl) s⟩⟩
  case inert =>
    have ho : opcode w = opcMiscMem ∨ opcode w = opcSystem := h.imp opcode_eq_iff.2 opcode_eq_iff.2
    obtain ⟨i, hd, hi⟩ := decodeWord_runsInert ho
    exact ⟨classify_inert ho, (dispatchWord_instr s hd).trans (hi.exec_eq s)⟩
  case miscMem =>
    rw [decodeWord_of_miscMem (opcode_eq_iff.2 h),
      nameMiscMem_other (mt funct3_eq_iff.1 h0) (mt funct3_eq_iff.1 h1)]
  case system =>
    rw [decodeWord_of_system (opcode_eq_iff.2 h)]
    obtain h4 | ⟨h0, hc, hb⟩ := hf
    · rw [nameSystem_funct3_four (funct3_eq_iff.2 h4)]
    · rw [nameSystem_funct3_zero (funct3_eq_iff.2 h0) (mt (congrArg BitVec.toNat) hc)
        (mt (congrArg BitVec.toNat) hb)]

end Sys2Proof.Proofs
end

section
/-! PROOFS. Exceptions (60_exceptions.md R163 to R170): the checks of a step in their order, the instructions
that raise nothing, and the fetch faults of a run, which the invariant decides. -/

namespace Sys2Proof.Proofs

open Sys2Proof Sys2Proof.Machine Sys2Proof.Claims

/-! ## The order of the checks (R170) -/

theorem step_of_pc_misaligned {s : State} (hrun : s.status = .runnable) (h4 : s.pc.toNat % 4 ≠ 0) :
    step s = .next (trapOf s .alignmentFault .fetch s.pc) :=
  step_fetch_fails hrun (memRead_of_check_some (checkAccess_misaligned .fetch _ _ _ h4))

/-- Settles O2: the check of the fetch finds the misaligned pc before the range; a fetch that passes it gives
`w`, whose dispatch takes IllegalInstruction. -/
theorem stepTakesTheFirstFailingCheck : Obligations.StepTakesTheFirstFailingCheck := by
  unfold Obligations.StepTakesTheFirstFailingCheck
  refine fun s hrun => ⟨step_of_pc_misaligned hrun, step_of_pc_outOfRange hrun, fun w h4 hr hw hd => ?_⟩
  rw [step_fetched hrun (fetchWord_of_bytesValue h4 hr hw)]
  cases hdec : decodeWord w with
  | error d => exact illegalHere_of_decodeWord_error s hdec
  | ok i => exact absurd hdec (hd i)

/-! ## The instructions that raise no exception (R168) -/

/-- The forms with a check are those of the loads, stores, jumps and branches. -/
theorem HandlerForm.completes {i : Instr} {H : State → HandlerResult} (hH : HandlerForm i H)
    (hload : isLoad i = false) (hstore : isStore i = false) (hctl : isControlTransfer i = false)
    (s : State) : ∃ e, H s = .ok e := by
  cases hH with
  | result => exact ⟨_, rfl⟩
  | jumps hc => cases hctl.symm.trans hc
  | branches hc => cases hctl.symm.trans hc
  | loads hc => cases hload.symm.trans hc
  | stores hc => cases hstore.symm.trans hc
  | noEffect => exact ⟨_, rfl⟩

/-- Settles O11: the handler completes, and its commit keeps the status. -/
theorem onlyMemoryAndControlInstructionsRaise : Obligations.OnlyMemoryAndControlInstructionsRaise := by
  unfold Obligations.OnlyMemoryAndControlInstructionsRaise
  intro i s hload hstore hctl
  obtain ⟨H, hH, hexec⟩ := exec_form i
  obtain ⟨e, he⟩ := hH.completes hload hstore hctl s
  exact ⟨commit e s, by rw [hexec, he, complete_ok], commit_status e s⟩

/-! ## The invariant along a run (R46, R183) -/

theorem construct_inv (regs : Vector Word 32) {pc : Word} {m : Memory} (hm : m.wf)
    (hpc : pc.toNat % 4 = 0) : Inv (State.construct regs pc m) where
  memory := hm
  aligned := hpc
  record _ he := nomatch he

theorem stepsFrom_inv {n : Nat} {s t : State} (hs : Inv s) (h : stepsFrom n s = some t) : Inv t := by
  induction n generalizing s with
  | zero => cases h; exact hs
  | succ n ih =>
    obtain ⟨u, hu⟩ := step_answers s
    rw [stepsFrom_succ_of_step hu] at h
    exact ih (stepKeepsTheInvariant s u hs hu) h

/-! ## The record of a failed fetch (R165, R166, R169) -/

theorem kind_of_fetch_access {k : ExceptionKind} (h : .fetch ∈ k.accesses) :
    k = .fetchFault ∨ k = .alignmentFault := by
  cases k with
  | fetchFault => exact .inl rfl
  | alignmentFault => exact .inr rfl
  | illegalInstruction | memoryAccessFault => simp [ExceptionKind.accesses] at h

section FetchRecord

variable {e : Exception} {s : State}

/-- A fetch record's address is the pc, so an aligned pc leaves no alignment fault. -/
theorem kind_of_fetch_record (h : RecordLegal e s) (hpc : s.pc.toNat % 4 = 0) (hacc : e.access = .fetch) :
    e.kind = .fetchFault := by
  refine (kind_of_fetch_access (hacc ▸ h.access_of_kind)).resolve_right fun hk => ?_
  have hmis := h.misaligned hk
  rw [h.fetch_addr hacc, h.pc_kept, hacc] at hmis
  exact hmis hpc

theorem not_within_of_fetch_record (h : RecordLegal e s) (hacc : e.access = .fetch)
    (hk : e.kind = .fetchFault) : ¬ Within s s.pc.toNat 4 := by
  have hout := h.fetch_outside hk
  rwa [h.fetch_addr hacc, h.pc_kept, ← Bool.not_eq_true, inRange_iff] at hout

end FetchRecord

/-- Settles O42: the construction has the invariant, every step of the run keeps it, and it leaves a fetch
record no kind but FetchFault. -/
theorem alignedBootNeverMisfetches : Obligations.AlignedBootNeverMisfetches := by
  unfold Obligations.AlignedBootNeverMisfetches
  intro regs pc m n t e hm hpc hrun hst hacc
  have hinv := stepsFrom_inv (construct_inv regs hm hpc) hrun
  have hrec := hinv.record e hst
  have hk := kind_of_fetch_record hrec hinv.aligned hacc
  exact ⟨hk, hrec.pc_kept, not_within_of_fetch_record hrec hacc hk⟩

end Sys2Proof.Proofs
end

section
/-! PROOFS. Construction, reset and the calls of `step()` from any state (70_reset_and_hazards.md R181 to R184,
R190): what a construction and the reset hold, what their first step does, and that no call is refused. -/

namespace Sys2Proof.Proofs

open Sys2Proof Sys2Proof.Machine Sys2Proof.Claims

/-! ## Every call answers (R93, R190) -/

/-- Settles O5: by induction on the number of calls, each of which gives the state of the next. -/
theorem everyCallOfStepAnswers : Obligations.EveryCallOfStepAnswers := by
  unfold Obligations.EveryCallOfStepAnswers
  intro n
  induction n with
  | zero => exact fun s => ⟨s, rfl⟩
  | succ n ih =>
    intro s
    obtain ⟨t, ht⟩ := step_answers s
    rw [stepsFrom_succ_of_step ht]
    exact ih t

/-! ## Construction and reset (R181, R182) -/

theorem recordedException_of_runnable {s : State} (h : s.status = .runnable) :
    recordedException s = none := by
  rw [recordedException, h]

/-- Settles O36: a construction is Runnable, so it has nothing recorded, and index 0 is guarded. -/
theorem constructionIsReset : Obligations.ConstructionIsReset := by
  unfold Obligations.ConstructionIsReset
  rintro regs pc m s rfl
  have hrun := construct_status regs pc m
  exact ⟨construct_regcell .., construct_pc .., hrun, recordedException_of_runnable hrun,
    construct_mem .., readReg_zero _⟩

theorem readReg_reset (r : Reg) : readReg State.reset r = 0 := by
  by_cases h : r = 0
  · rw [h, readReg_zero]
  · rw [readReg_of_ne_zero _ h]
    exact Vector.getElem_replicate r.isLt

/-- A memory that lists no cell reads the unlisted byte everywhere. -/
theorem readByte_of_cells_nil {m : Memory} (h : m.cells = []) (a : Nat) :
    m.readByte a = Config.unlistedByte := by
  rw [Memory.readByte, h, lookupCell]

/-- A memory that lists no cell is in canonical form when its range meets R8. -/
theorem wf_of_cells_nil {m : Memory} (h : m.cells = []) (hsize : 1 ≤ m.size)
    (hrange : m.base + m.size ≤ 2 ^ 64) : m.wf :=
  ⟨h ▸ .nil, fun _ hc => absurd (h ▸ hc) List.not_mem_nil, hsize, hrange⟩

/-- Settles O37: the values of Config.lean, with every register cell 0 and no cell listed. -/
theorem resetState : Obligations.ResetState := by
  unfold Obligations.ResetState
  exact ⟨readReg_reset, rfl, rfl, rfl, rfl, readByte_of_cells_nil rfl⟩

/-- Settles O41: the reset state is a construction, with an unlisted memory and pc 0. -/
theorem bootStatesHaveTheInvariant : Obligations.BootStatesHaveTheInvariant := by
  unfold Obligations.BootStatesHaveTheInvariant
  exact ⟨construct_inv _ (wf_of_cells_nil rfl (by decide) (by decide)) rfl,
    fun regs _ _ => construct_inv regs⟩

/-! ## The first step of a construction (R183) -/

/-- Settles O38: the construction is Runnable at the given pc, where the fetch of a step finds the fault. -/
theorem unfetchableBootFaultsOnTheFirstStep : Obligations.UnfetchableBootFaultsOnTheFirstStep := by
  unfold Obligations.UnfetchableBootFaultsOnTheFirstStep
  rintro regs pc m s rfl
  have hrun := construct_status regs pc m
  exact ⟨hrun, step_of_pc_misaligned hrun, step_of_pc_outOfRange hrun⟩

/-! ## A word placed at the pc (R50, R184) -/

theorem tableWord_toNat (w : Word32) : tableWord 32 w.toNat = w := by
  rw [tableWord, Nat.mod_eq_of_lt w.isLt, BitVec.ofNat_toNat, BitVec.setWidth_eq]

theorem withFetchWord_pc (s : State) (nbits w : Nat) : (s.withFetchWord nbits w).pc = s.pc := rfl

theorem withFetchWord_mem (s : State) (w : Word32) :
    (s.withFetchWord 32 w.toNat).mem = s.mem.writeLE s.pc.toNat (w.setWidth 64) 4 := by
  rw [State.withFetchWord, tableWord_toNat, setMem_mem]

theorem withFetchWord_rangeKept (s : State) (nbits w : Nat) : RangeKept s (s.withFetchWord nbits w) :=
  ⟨writeLE_base .., writeLE_size ..⟩

/-- The 4 bytes at the pc hold the placed word. -/
theorem readLE_withFetchWord {s : State} (w : Word32) (hm : s.mem.wf) (hr : Within s s.pc.toNat 4) :
    (s.withFetchWord 32 w.toNat).mem.readLE s.pc.toNat 4 = w.toNat := by
  rw [withFetchWord_mem, readLE_writeLE_same _ _ _ _ hm ((inRange_iff _ _ _).2 hr),
    BitVec.toNat_setWidth_of_le (by decide)]
  exact Nat.mod_eq_of_lt w.isLt

/-- The placed word is the one the hart fetches. -/
theorem fetchWord_withFetchWord {s : State} (w : Word32) (hm : s.mem.wf) (h4 : s.pc.toNat % 4 = 0)
    (hr : Within s s.pc.toNat 4) : fetchWord (s.withFetchWord 32 w.toNat) = .ok w := by
  refine fetchWord_of_bytesValue h4 ((within_of_rangeKept (withFetchWord_rangeKept s 32 w.toNat) _ _).2 hr) ?_
  rw [← readLE_eq_bytesValue, withFetchWord_pc, readLE_withFetchWord w hm hr]

/-- Settles O39: the next step fetches the placed word, and the write leaves the bytes outside its 4 alone. -/
theorem placedWordIsTheOneThatRuns : Obligations.PlacedWordIsTheOneThatRuns := by
  unfold Obligations.PlacedWordIsTheOneThatRuns
  rintro s w hrun hm h4 hr t rfl
  exact ⟨step_fetched hrun (fetchWord_withFetchWord w hm h4 hr), readReg_setMem _ s, rfl, rfl,
    withFetchWord_rangeKept s 32 w.toNat, readByte_writeLE_outside _ _ _ _⟩

end Sys2Proof.Proofs
end

section
/-! PROOFS. Decoder against encoder (30_encoding.md sections 2 to 5; opcode_table.json). What a selection answers
writes its record back, and the record's fields are all of the word, so encoding undoes decoding. The other
way, an instruction has a row of the table that its word fits, and a word that fits a row decodes to what the
row makes of its operands. -/

namespace Sys2Proof.Proofs

open Sys2Proof Sys2Proof.Machine Sys2Proof.Claims Sys2Proof.Laws

/-! ## From the fields of a word back to the word (R50 to R60) -/

section Words

variable (w : Word32)

theorem encodeR_fields :
    encodeR (funct7 w) (fieldRs2 w) (fieldRs1 w) (funct3 w) (fieldRd w) (opcode w) = w :=
  BitVec.eq_of_getLsbD_eq fun i hi => by
    interval_cases i <;> simp [encodeR, funct7, fieldRs2, fieldRs1, funct3, fieldRd, opcode]

theorem encodeI_fields :
    encodeI (immI w) (fieldRs1 w) (funct3 w) (fieldRd w) (opcode w) = w :=
  BitVec.eq_of_getLsbD_eq fun i hi => by
    interval_cases i <;> simp [encodeI, immI, fieldRs1, funct3, fieldRd, opcode]

theorem encodeS_fields :
    encodeS (immS w) (fieldRs2 w) (fieldRs1 w) (funct3 w) (opcode w) = w :=
  BitVec.eq_of_getLsbD_eq fun i hi => by
    interval_cases i <;> simp [encodeS, immS, fieldRs2, fieldRs1, funct3, opcode]

theorem encodeB_fields :
    encodeB (immB w) (fieldRs2 w) (fieldRs1 w) (funct3 w) (opcode w) = w :=
  BitVec.eq_of_getLsbD_eq fun i hi => by
    interval_cases i <;> simp [encodeB, immB, fieldRs2, fieldRs1, funct3, opcode]

theorem encodeU_fields : encodeU (immU w) (fieldRd w) (opcode w) = w :=
  BitVec.eq_of_getLsbD_eq fun i hi => by
    interval_cases i <;> simp [encodeU, immU, fieldRd, opcode]

theorem encodeJ_fields : encodeJ (immJ w) (fieldRd w) (opcode w) = w :=
  BitVec.eq_of_getLsbD_eq fun i hi => by
    interval_cases i <;> simp [encodeJ, immJ, fieldRd, opcode]

theorem wordOfBytes_bytesOfWord : wordOfBytes (bits w 0 8) (bits w 8 8) (bits w 16 8) (bits w 24 8) = w :=
  BitVec.eq_of_getLsbD_eq fun i hi => by
    interval_cases i <;> simp [wordOfBytes]

/-- The three sets of a FENCE fill its immediate field (R151). -/
theorem join_fence :
    place 12 (bits w 28 4) 8 ||| place 12 (bits w 24 4) 4 ||| place 12 (bits w 20 4) 0 = immI w :=
  BitVec.eq_of_getLsbD_eq fun i hi => by
    interval_cases i <;> simp [immI]

end Words

theorem join_shift6 (imm : BitVec 12) : place 12 (disc6 imm) 6 ||| place 12 (shamt6 imm) 0 = imm :=
  BitVec.eq_of_getLsbD_eq fun i hi => by
    interval_cases i <;> simp [disc6, shamt6]

theorem join_shift5 (imm : BitVec 12) : place 12 (disc7 imm) 5 ||| place 12 (shamt5 imm) 0 = imm :=
  BitVec.eq_of_getLsbD_eq fun i hi => by
    interval_cases i <;> simp [disc7, shamt5]

theorem evenOffset_immB (w : Word32) : evenOffset (immB w) = true := by
  rw [evenOffset, beq_iff_eq, toNat_immB]; omega

theorem evenOffset_immJ (w : Word32) : evenOffset (immJ w) = true := by
  rw [evenOffset, beq_iff_eq, toNat_immJ]; omega

theorem upperImmediate_immU (w : Word32) : upperImmediate (immU w) = true := by
  rw [upperImmediate, beq_iff_eq, toNat_immU]; omega

/-! ## What a selection answers encodes the record (R83, R84)

The arm of a selection and the arm of `encode` for the instruction it names hold the same selectors. -/

/-- `i` is well formed and its word is `w`. -/
def EncodesTo (i : Instr) (w : Word32) : Prop := i.wellFormed = true ∧ encode i = w

theorem EncodesTo.of_eq {i : Instr} {v w : Word32} (h : EncodesTo i v) (e : v = w) : EncodesTo i w :=
  e ▸ h

/-- Case analysis on a funct3. -/
theorem funct3_elim {motive : BitVec 3 → Prop} (f000 : motive 0#3) (f001 : motive 1#3)
    (f010 : motive 2#3) (f011 : motive 3#3) (f100 : motive 4#3) (f101 : motive 5#3)
    (f110 : motive 6#3) (f111 : motive 7#3) : ∀ f, motive f
  | 0#3 => f000 | 1#3 => f001 | 2#3 => f010 | 3#3 => f011
  | 4#3 => f100 | 5#3 => f101 | 6#3 => f110 | 7#3 => f111

section Selections

variable {i : Instr}

/-- `execR` names operations of its two opcodes under two values of funct7 only. -/
theorem selectR_ok_fields {r : RRecord} (h : selectR r = .ok i) :
    (r.opcode = opcOp ∨ r.opcode = opcOp32) ∧ (r.funct7 = 0#7 ∨ r.funct7 = 32#7) := by
  unfold selectR at h
  split_ifs at h <;> tauto

theorem encodesTo_of_selectR {r : RRecord} (h : selectR r = .ok i) :
    EncodesTo i (encodeR r.funct7 r.rs2 r.rs1 r.funct3 r.rd r.opcode) := by
  have hf := selectR_ok_fields h
  obtain ⟨o, f3, f7, rs1, rs2, rd⟩ := r
  obtain ⟨rfl | rfl, rfl | rfl⟩ := hf
  all_goals
    cases f3 using funct3_elim with
    | _ => cases h <;> exact ⟨rfl, rfl⟩

/-- The 64-bit shifts (R63): the discriminator and the amount make up the immediate. -/
theorem encodeShift6_disc6 (imm : BitVec 12) (rs1 : Reg) (f3 : BitVec 3) (rd : Reg) (opc : BitVec 7) :
    encodeShift6 (disc6 imm) (shamt6 imm) rs1 f3 rd opc = encodeI imm rs1 f3 rd opc := by
  rw [encodeShift6, join_shift6]

/-- The word shifts (R64). -/
theorem encodeShift5_disc7 (imm : BitVec 12) (rs1 : Reg) (f3 : BitVec 3) (rd : Reg) (opc : BitVec 7) :
    encodeShift5 (disc7 imm) (shamt5 imm) rs1 f3 rd opc = encodeI imm rs1 f3 rd opc := by
  rw [encodeShift5, join_shift5]

theorem encodesTo_of_selectOpImm {r : IRecord} (ho : r.opcode = opcOpImm) (h : selectOpImm r = .ok i) :
    EncodesTo i (encodeI r.imm r.rs1 r.funct3 r.rd r.opcode) := by
  obtain ⟨o, f3, rs1, rd, imm⟩ := r
  subst ho
  cases f3 using funct3_elim with
  | f001 =>
    simp only [selectOpImm] at h
    split_ifs at h with hd
    cases h
    exact ⟨rfl, by rw [← encodeShift6_disc6, hd]; rfl⟩
  | f101 =>
    simp only [selectOpImm] at h
    split_ifs at h with hd hd
    all_goals cases h <;> exact ⟨rfl, by rw [← encodeShift6_disc6, hd]; rfl⟩
  | _ => cases h; exact ⟨rfl, rfl⟩

theorem encodesTo_of_selectOpImm32 {r : IRecord} (ho : r.opcode = opcOpImm32)
    (h : selectOpImm32 r = .ok i) : EncodesTo i (encodeI r.imm r.rs1 r.funct3 r.rd r.opcode) := by
  obtain ⟨o, f3, rs1, rd, imm⟩ := r
  subst ho
  cases f3 using funct3_elim with
  | f001 =>
    simp only [selectOpImm32] at h
    split_ifs at h with hd
    cases h
    exact ⟨rfl, by rw [← encodeShift5_disc7, hd]; rfl⟩
  | f101 =>
    simp only [selectOpImm32] at h
    split_ifs at h with hd hd
    all_goals
      cases h
      exact ⟨rfl, by rw [← encodeShift5_disc7, hd]; rfl⟩
  | _ => cases h <;> exact ⟨rfl, rfl⟩

theorem encodesTo_of_selectLoad {r : IRecord} (ho : r.opcode = opcLoad) (h : selectLoad r = .ok i) :
    EncodesTo i (encodeI r.imm r.rs1 r.funct3 r.rd r.opcode) := by
  obtain ⟨o, f3, rs1, rd, imm⟩ := r
  subst ho
  cases f3 using funct3_elim with
  | _ => cases h <;> exact ⟨rfl, rfl⟩

theorem encodesTo_of_selectI {r : IRecord} (h : selectI r = .ok i) :
    EncodesTo i (encodeI r.imm r.rs1 r.funct3 r.rd r.opcode) := by
  unfold selectI at h
  split_ifs at h with hopImm hopImm32 hload hjalr
  · exact encodesTo_of_selectOpImm hopImm h
  · exact encodesTo_of_selectOpImm32 hopImm32 h
  · exact encodesTo_of_selectLoad hload h
  · cases h
    exact ⟨rfl, by rw [hjalr.1, hjalr.2]; rfl⟩

theorem encodesTo_of_selectS {r : SRecord} (h : selectS r = .ok i) :
    EncodesTo i (encodeS r.imm r.rs2 r.rs1 r.funct3 r.opcode) := by
  obtain ⟨o, f3, rs1, rs2, imm⟩ := r
  simp only [selectS] at h
  split_ifs at h with ho
  subst ho
  cases f3 using funct3_elim with
  | _ => cases h <;> exact ⟨rfl, rfl⟩

theorem encodesTo_of_selectB {r : BRecord} (hi : evenOffset r.imm = true) (h : selectB r = .ok i) :
    EncodesTo i (encodeB r.imm r.rs2 r.rs1 r.funct3 r.opcode) := by
  obtain ⟨o, f3, rs1, rs2, imm⟩ := r
  simp only [selectB] at h
  split_ifs at h with ho
  subst ho
  cases f3 using funct3_elim with
  | _ => cases h <;> exact ⟨hi, rfl⟩

theorem encodesTo_of_selectU {r : URecord} (hi : upperImmediate r.imm = true) (h : selectU r = .ok i) :
    EncodesTo i (encodeU r.imm r.rd r.opcode) := by
  unfold selectU at h
  split_ifs at h with ho ho
  all_goals
    cases h
    exact ⟨hi, by rw [ho]; rfl⟩

theorem encodesTo_of_selectJ {r : JRecord} (hi : evenOffset r.imm = true) (h : selectJ r = .ok i) :
    EncodesTo i (encodeJ r.imm r.rd r.opcode) := by
  unfold selectJ at h
  split_ifs at h with ho
  cases h
  exact ⟨hi, by rw [ho]; rfl⟩

end Selections

/-! ### The inert words (R151 to R161) -/

theorem otherMiscMem_iff (w : Word32) :
    otherMiscMem w = true ↔ opcode w = opcMiscMem ∧ funct3 w ≠ 0#3 ∧ funct3 w ≠ 1#3 := by
  simp [otherMiscMem, opcode, funct3, bits, and_assoc]

theorem otherSystem_iff (w : Word32) :
    otherSystem w = true ↔ opcode w = opcSystem ∧
      (funct3 w = 4#3 ∨ funct3 w = 0#3 ∧ w ≠ 0x00000073 ∧ w ≠ 0x00100073) := by
  simp [otherSystem, opcode, funct3, bits, and_assoc]

section Inert

variable {w : Word32}

/-- The I-format word of a word's own fields, with its selectors known. -/
theorem encodeI_of_selectors {o : BitVec 7} {f : BitVec 3} (ho : opcode w = o) (h3 : funct3 w = f) :
    encodeI (immI w) (fieldRs1 w) f (fieldRd w) o = w := by
  rw [← ho, ← h3, encodeI_fields]

theorem encodesTo_nameMiscMem (ho : opcode w = opcMiscMem) : EncodesTo (nameMiscMem w) w := by
  fun_cases nameMiscMem w
  case case1 h3 =>
    exact ⟨rfl, by rw [encode, join_fence]; exact encodeI_of_selectors ho h3⟩
  case case2 h3 => exact ⟨rfl, encodeI_of_selectors ho h3⟩
  case case3 h0 h1 => exact ⟨(otherMiscMem_iff w).2 ⟨ho, h0, h1⟩, rfl⟩

/-- funct3 100 is the one value no SYSTEM row names. -/
theorem funct3_eq_four : ∀ f : BitVec 3, f ≠ 0#3 → f ≠ 1#3 → f ≠ 2#3 → f ≠ 3#3 → f ≠ 5#3 → f ≠ 6#3 →
    f ≠ 7#3 → f = 4#3 := by
  intro f
  cases f using funct3_elim <;> simp

theorem encodesTo_nameSystem (ho : opcode w = opcSystem) : EncodesTo (nameSystem w) w := by
  fun_cases nameSystem w
  case case1 hw | case2 hw => exact ⟨rfl, hw.symm⟩
  case case3 h3 hc hb => exact ⟨(otherSystem_iff w).2 ⟨ho, .inr ⟨h3, hc, hb⟩⟩, rfl⟩
  case case10 h0 h1 h2 h3 h5 h6 h7 =>
    exact ⟨(otherSystem_iff w).2 ⟨ho, .inl (funct3_eq_four _ h0 h1 h2 h3 h5 h6 h7)⟩, rfl⟩
  all_goals exact ⟨rfl, encodeI_of_selectors ho ‹_›⟩

theorem encodesTo_of_selectInert {i : Instr} (h : selectInert w = .ok i) : EncodesTo i w := by
  unfold selectInert at h
  split_ifs at h with ho ho
  · cases h; exact encodesTo_nameMiscMem ho
  · cases h; exact encodesTo_nameSystem ho

end Inert

/-! ### Every word that decodes -/

/-- The tag of a classified word holds the word's own record (R65 to R75). -/
theorem classify_cases {w : Word32} {inst : Instruction} (h : classify w = .instr inst) :
    inst = .r (extractR w) ∨ inst = .i (extractI w) ∨ inst = .s (extractS w) ∨ inst = .b (extractB w) ∨
      inst = .u (extractU w) ∨ inst = .j (extractJ w) ∨ inst = .inert w := by
  revert h
  fun_cases classify w <;> rintro ⟨⟩ <;> simp

/-- The word is classified with its own record, and the record's fields are all of the word. -/
theorem encodesTo_of_decodeWord {w : Word32} {i : Instr} (h : decodeWord w = .ok i) : EncodesTo i w := by
  unfold decodeWord at h
  split at h
  case h_1 => cases h
  case h_2 inst hc =>
    obtain rfl | rfl | rfl | rfl | rfl | rfl | rfl := classify_cases hc
    · exact (encodesTo_of_selectR h).of_eq (encodeR_fields w)
    · exact (encodesTo_of_selectI h).of_eq (encodeI_fields w)
    · exact (encodesTo_of_selectS h).of_eq (encodeS_fields w)
    · exact (encodesTo_of_selectB (evenOffset_immB w) h).of_eq (encodeB_fields w)
    · exact (encodesTo_of_selectU (upperImmediate_immU w) h).of_eq (encodeU_fields w)
    · exact (encodesTo_of_selectJ (evenOffset_immJ w) h).of_eq (encodeJ_fields w)
    · exact encodesTo_of_selectInert h

/-! ## The operands of an encoded instruction (R53 to R64)

`opR` to `opJ` read what the extractor of the format reads, and the extractor gives back what was encoded. -/

section Operands

variable {f7 : BitVec 7} {f3 : BitVec 3} {opc : BitVec 7} {rd rs1 rs2 : Reg}

theorem opR_encodeR {mk : Reg → Reg → Reg → Instr} :
    opR mk (encodeR f7 rs2 rs1 f3 rd opc) = mk rd rs1 rs2 := by
  have hop : ∀ w, opR mk w = mk (extractR w).rd (extractR w).rs1 (extractR w).rs2 := fun w => by
    rw [extractR, fieldRd_eq, fieldRs1_eq, fieldRs2_eq, opR]
  rw [hop, extractR_encodeR]

theorem opI_encodeI {mk : Reg → Reg → BitVec 12 → Instr} {imm : BitVec 12} :
    opI mk (encodeI imm rs1 f3 rd opc) = mk rd rs1 imm := by
  have hop : ∀ w, opI mk w = mk (extractI w).rd (extractI w).rs1 (extractI w).imm := fun w => by
    rw [extractI, fieldRd_eq, fieldRs1_eq]; rfl
  rw [hop, extractI_encodeI]

/-- The amount below a discriminator (R63). -/
theorem shamt6_place (d shamt : BitVec 6) : shamt6 (place 12 d 6 ||| place 12 shamt 0) = shamt :=
  BitVec.eq_of_getLsbD_eq fun i hi => by
    interval_cases i <;> simp [shamt6]

/-- The amount below a discriminator (R64). -/
theorem shamt5_place (d : BitVec 7) (shamt : BitVec 5) :
    shamt5 (place 12 d 5 ||| place 12 shamt 0) = shamt :=
  BitVec.eq_of_getLsbD_eq fun i hi => by
    interval_cases i <;> simp [shamt5]

theorem opShift6_encodeShift6 {mk : Reg → Reg → BitVec 6 → Instr} {d shamt : BitVec 6} :
    opShift6 mk (encodeShift6 d shamt rs1 f3 rd opc) = mk rd rs1 shamt := by
  have hop : ∀ w, opShift6 mk w = opI (fun rd rs1 imm => mk rd rs1 (shamt6 imm)) w := fun w => by
    rw [opShift6, opI]; exact congrArg _ (shamt6_immI w).symm
  rw [hop, encodeShift6, opI_encodeI, shamt6_place]

theorem opShift5_encodeShift5 {mk : Reg → Reg → BitVec 5 → Instr} {d : BitVec 7} {shamt : BitVec 5} :
    opShift5 mk (encodeShift5 d shamt rs1 f3 rd opc) = mk rd rs1 shamt := by
  have hop : ∀ w, opShift5 mk w = opI (fun rd rs1 imm => mk rd rs1 (shamt5 imm)) w := fun w => by
    rw [opShift5, opI]; exact congrArg _ (shamt5_immI w).symm
  rw [hop, encodeShift5, opI_encodeI, shamt5_place]

theorem opS_encodeS {mk : Reg → Reg → BitVec 12 → Instr} {imm : BitVec 12} :
    opS mk (encodeS imm rs2 rs1 f3 opc) = mk rs2 rs1 imm := by
  have hop : ∀ w, opS mk w = mk (extractS w).rs2 (extractS w).rs1 (extractS w).imm := fun w => by
    rw [extractS, fieldRs1_eq, fieldRs2_eq, immS_eq_append]; rfl
  rw [hop, extractS_encodeS]

theorem opB_encodeB {mk : Reg → Reg → BitVec 13 → Instr} {imm : BitVec 13} (h : evenOffset imm = true) :
    opB mk (encodeB imm rs2 rs1 f3 opc) = mk rs1 rs2 imm := by
  have hop : ∀ w, opB mk w = mk (extractB w).rs1 (extractB w).rs2 (extractB w).imm := fun w => by
    rw [extractB, fieldRs1_eq, fieldRs2_eq, immB_eq_append]; rfl
  rw [hop, extractB_encodeB _ _ _ _ _ h]

theorem opU_encodeU {mk : Reg → BitVec 32 → Instr} {imm : BitVec 32} (h : upperImmediate imm = true) :
    opU mk (encodeU imm rd opc) = mk rd imm := by
  have hop : ∀ w, opU mk w = mk (extractU w).rd (extractU w).imm := fun w => by
    rw [extractU, fieldRd_eq, immU_eq_append]; rfl
  rw [hop, extractU_encodeU _ _ _ h]

theorem opJ_encodeJ {mk : Reg → BitVec 21 → Instr} {imm : BitVec 21} (h : evenOffset imm = true) :
    opJ mk (encodeJ imm rd opc) = mk rd imm := by
  have hop : ∀ w, opJ mk w = mk (extractJ w).rd (extractJ w).imm := fun w => by
    rw [extractJ, fieldRd_eq, immJ_eq_append]; rfl
  rw [hop, extractJ_encodeJ _ _ _ h]

/-- The operands of a CSR instruction with an immediate: the rs1 field is a number (R158). -/
def opCsrImm (mk : Reg → BitVec 5 → BitVec 12 → Instr) (w : Word32) : Instr :=
  mk (regAt w 7) (w.extractLsb' 15 5) (w.extractLsb' 20 12)

theorem opCsrImm_encodeI {mk : Reg → BitVec 5 → BitVec 12 → Instr} {csr : BitVec 12} {uimm : BitVec 5} :
    opCsrImm mk (encodeI csr (regOf uimm) f3 rd opc) = mk rd uimm csr := by
  have hop : ∀ w, opCsrImm mk w = opI (fun rd rs1 csr => mk rd (regBits rs1) csr) w := fun w => by
    rw [opI, ← regOf_bits w 15, regBits_regOf]; rfl
  rw [hop, opI_encodeI, regBits_regOf]

/-- The operands of a FENCE: its three sets are the pieces of the I immediate (R151). -/
def opFence (w : Word32) : Instr :=
  .fence (w.extractLsb' 28 4) (w.extractLsb' 24 4) (w.extractLsb' 20 4) (regAt w 15) (regAt w 7)

/-- The three sets in a 12-bit field. -/
theorem extract_fenceSets {fm pred succ : BitVec 4} {imm : BitVec 12}
    (h : imm = place 12 fm 8 ||| place 12 pred 4 ||| place 12 succ 0) :
    imm.extractLsb' 8 4 = fm ∧ imm.extractLsb' 4 4 = pred ∧ imm.extractLsb' 0 4 = succ := by
  subst h
  refine ⟨?_, ?_, ?_⟩
  all_goals
    refine BitVec.eq_of_getLsbD_eq fun i hi => ?_
    interval_cases i <;> simp

theorem opFence_encodeI {fm pred succ : BitVec 4} :
    opFence (encodeI (place 12 fm 8 ||| place 12 pred 4 ||| place 12 succ 0) rs1 f3 rd opc) =
      .fence fm pred succ rs1 rd := by
  have hop : ∀ w, opFence w = opI (fun rd rs1 imm =>
      .fence (imm.extractLsb' 8 4) (imm.extractLsb' 4 4) (imm.extractLsb' 0 4) rs1 rd) w := fun w => by
    have hset (k : Nat) (hk : k + 4 ≤ 12) : (w.extractLsb' 20 12).extractLsb' k 4 = bits w (20 + k) 4 :=
      extractLsb'_bits w hk
    rw [opI, hset 8 (by decide), hset 4 (by decide), hset 0 (by decide)]
    rfl
  obtain ⟨hfm, hpred, hsucc⟩ := extract_fenceSets (fm := fm) (pred := pred) (succ := succ) rfl
  rw [hop, opI_encodeI, hfm, hpred, hsucc]

end Operands

/-! ## The rows of the table (opcode_table.json) -/

/-- `op` is the row of `i`: every word with the row's fixed bits decodes to what `op` makes of its operands, and
the word of `i` is one of them, with the operands of `i`. -/
structure IsRow (i : Instr) (op : Word32 → Instr) : Prop where
  decodes : DecodesWhen i.tableRow.pattern i.tableRow.mask op
  fits : TableMatch.Statement i
  operands : i.wellFormed = true → op (encode i) = i

/-- A catch-all word has the opcode of its row, and no row above names it (R161). -/
theorem isRow_miscMemOther (w : Word32) : IsRow (.miscMemOther w) nameMiscMem where
  decodes _ hw := decodeWord_of_miscMem (bits_of_fixed (mask := 0x0000007F) hw (by decide))
  fits := TableMatch.miscMemOther w
  operands h :=
    have ⟨_, h0, h1⟩ := (otherMiscMem_iff w).1 h
    nameMiscMem_other h0 h1

theorem isRow_systemOther (w : Word32) : IsRow (.systemOther w) nameSystem where
  decodes _ hw := decodeWord_of_system (bits_of_fixed (mask := 0x0000007F) hw (by decide))
  fits := TableMatch.systemOther w
  operands h := by
    obtain ⟨-, h4 | ⟨h0, hc, hb⟩⟩ := (otherSystem_iff w).1 h
    · exact nameSystem_funct3_four h4
    · exact nameSystem_funct3_zero h0 hc hb

/-- Every instruction has its row: the words are those of the statements about the instructions. -/
theorem exists_isRow (i : Instr) : ∃ op, IsRow i op := by
  obtain ⟨⟨addi, -⟩, ⟨slti, -⟩, ⟨sltiu, -⟩, ⟨xori, -⟩, ⟨ori, -⟩, ⟨andi, -⟩⟩ := opImmInstructions
  obtain ⟨⟨slli, -⟩, ⟨srli, -⟩, ⟨srai, -⟩, -⟩ := opImmShiftInstructions
  obtain ⟨⟨addiw, -⟩, ⟨slliw, -⟩, ⟨srliw, -⟩, ⟨sraiw, -⟩, -⟩ := opImm32Instructions
  obtain ⟨⟨lui, -⟩, ⟨auipc, -⟩⟩ := upperImmediateInstructions
  obtain ⟨⟨add, -⟩, ⟨sub, -⟩, ⟨sll, -⟩, ⟨slt, -⟩, ⟨sltu, -⟩, ⟨xor, -⟩, ⟨srl, -⟩, ⟨sra, -⟩, ⟨or, -⟩,
    ⟨and, -⟩⟩ := opInstructions
  obtain ⟨⟨addw, -⟩, ⟨subw, -⟩, ⟨sllw, -⟩, ⟨srlw, -⟩, ⟨sraw, -⟩⟩ := op32Instructions
  obtain ⟨jal, -⟩ := jumpAndLink
  obtain ⟨jalr, -⟩ := jumpAndLinkRegister
  obtain ⟨⟨beq, -⟩, ⟨bne, -⟩, ⟨blt, -⟩, ⟨bge, -⟩, ⟨bltu, -⟩, ⟨bgeu, -⟩⟩ := conditionalBranches
  obtain ⟨⟨lb, -⟩, ⟨lh, -⟩, ⟨lw, -⟩, ⟨ld, -⟩, ⟨lbu, -⟩, ⟨lhu, -⟩, ⟨lwu, -⟩⟩ := loads
  obtain ⟨⟨sb, -⟩, ⟨sh, -⟩, ⟨sw, -⟩, ⟨sd, -⟩⟩ := storeInstructions
  obtain ⟨⟨fence, -⟩, ⟨fenceI, -⟩, ⟨ecall, -⟩, ⟨ebreak, -⟩, ⟨csrrw, -⟩, ⟨csrrs, -⟩, ⟨csrrc, -⟩, ⟨csrrwi, -⟩,
    ⟨csrrsi, -⟩, ⟨csrrci, -⟩⟩ := inertInstructions
  cases i with
  | addi rd rs1 imm => exact ⟨_, addi, TableMatch.addi rd rs1 imm, fun _ => opI_encodeI⟩
  | slti rd rs1 imm => exact ⟨_, slti, TableMatch.slti rd rs1 imm, fun _ => opI_encodeI⟩
  | sltiu rd rs1 imm => exact ⟨_, sltiu, TableMatch.sltiu rd rs1 imm, fun _ => opI_encodeI⟩
  | xori rd rs1 imm => exact ⟨_, xori, TableMatch.xori rd rs1 imm, fun _ => opI_encodeI⟩
  | ori rd rs1 imm => exact ⟨_, ori, TableMatch.ori rd rs1 imm, fun _ => opI_encodeI⟩
  | andi rd rs1 imm => exact ⟨_, andi, TableMatch.andi rd rs1 imm, fun _ => opI_encodeI⟩
  | slli rd rs1 shamt => exact ⟨_, slli, TableMatch.slli rd rs1 shamt, fun _ => opShift6_encodeShift6⟩
  | srli rd rs1 shamt => exact ⟨_, srli, TableMatch.srli rd rs1 shamt, fun _ => opShift6_encodeShift6⟩
  | srai rd rs1 shamt => exact ⟨_, srai, TableMatch.srai rd rs1 shamt, fun _ => opShift6_encodeShift6⟩
  | addiw rd rs1 imm => exact ⟨_, addiw, TableMatch.addiw rd rs1 imm, fun _ => opI_encodeI⟩
  | slliw rd rs1 shamt => exact ⟨_, slliw, TableMatch.slliw rd rs1 shamt, fun _ => opShift5_encodeShift5⟩
  | srliw rd rs1 shamt => exact ⟨_, srliw, TableMatch.srliw rd rs1 shamt, fun _ => opShift5_encodeShift5⟩
  | sraiw rd rs1 shamt => exact ⟨_, sraiw, TableMatch.sraiw rd rs1 shamt, fun _ => opShift5_encodeShift5⟩
  | lui rd imm => exact ⟨_, lui, TableMatch.lui rd imm, opU_encodeU⟩
  | auipc rd imm => exact ⟨_, auipc, TableMatch.auipc rd imm, opU_encodeU⟩
  | add rd rs1 rs2 => exact ⟨_, add, TableMatch.add rd rs1 rs2, fun _ => opR_encodeR⟩
  | sub rd rs1 rs2 => exact ⟨_, sub, TableMatch.sub rd rs1 rs2, fun _ => opR_encodeR⟩
  | sll rd rs1 rs2 => exact ⟨_, sll, TableMatch.sll rd rs1 rs2, fun _ => opR_encodeR⟩
  | slt rd rs1 rs2 => exact ⟨_, slt, TableMatch.slt rd rs1 rs2, fun _ => opR_encodeR⟩
  | sltu rd rs1 rs2 => exact ⟨_, sltu, TableMatch.sltu rd rs1 rs2, fun _ => opR_encodeR⟩
  | xor rd rs1 rs2 => exact ⟨_, xor, TableMatch.xor rd rs1 rs2, fun _ => opR_encodeR⟩
  | srl rd rs1 rs2 => exact ⟨_, srl, TableMatch.srl rd rs1 rs2, fun _ => opR_encodeR⟩
  | sra rd rs1 rs2 => exact ⟨_, sra, TableMatch.sra rd rs1 rs2, fun _ => opR_encodeR⟩
  | or rd rs1 rs2 => exact ⟨_, or, TableMatch.or rd rs1 rs2, fun _ => opR_encodeR⟩
  | and rd rs1 rs2 => exact ⟨_, and, TableMatch.and rd rs1 rs2, fun _ => opR_encodeR⟩
  | addw rd rs1 rs2 => exact ⟨_, addw, TableMatch.addw rd rs1 rs2, fun _ => opR_encodeR⟩
  | subw rd rs1 rs2 => exact ⟨_, subw, TableMatch.subw rd rs1 rs2, fun _ => opR_encodeR⟩
  | sllw rd rs1 rs2 => exact ⟨_, sllw, TableMatch.sllw rd rs1 rs2, fun _ => opR_encodeR⟩
  | srlw rd rs1 rs2 => exact ⟨_, srlw, TableMatch.srlw rd rs1 rs2, fun _ => opR_encodeR⟩
  | sraw rd rs1 rs2 => exact ⟨_, sraw, TableMatch.sraw rd rs1 rs2, fun _ => opR_encodeR⟩
  | jal rd imm => exact ⟨_, jal, TableMatch.jal rd imm, opJ_encodeJ⟩
  | jalr rd rs1 imm => exact ⟨_, jalr, TableMatch.jalr rd rs1 imm, fun _ => opI_encodeI⟩
  | beq rs1 rs2 imm => exact ⟨_, beq, TableMatch.beq rs1 rs2 imm, opB_encodeB⟩
  | bne rs1 rs2 imm => exact ⟨_, bne, TableMatch.bne rs1 rs2 imm, opB_encodeB⟩
  | blt rs1 rs2 imm => exact ⟨_, blt, TableMatch.blt rs1 rs2 imm, opB_encodeB⟩
  | bge rs1 rs2 imm => exact ⟨_, bge, TableMatch.bge rs1 rs2 imm, opB_encodeB⟩
  | bltu rs1 rs2 imm => exact ⟨_, bltu, TableMatch.bltu rs1 rs2 imm, opB_encodeB⟩
  | bgeu rs1 rs2 imm => exact ⟨_, bgeu, TableMatch.bgeu rs1 rs2 imm, opB_encodeB⟩
  | lb rd rs1 imm => exact ⟨_, lb, TableMatch.lb rd rs1 imm, fun _ => opI_encodeI⟩
  | lh rd rs1 imm => exact ⟨_, lh, TableMatch.lh rd rs1 imm, fun _ => opI_encodeI⟩
  | lw rd rs1 imm => exact ⟨_, lw, TableMatch.lw rd rs1 imm, fun _ => opI_encodeI⟩
  | ld rd rs1 imm => exact ⟨_, ld, TableMatch.ld rd rs1 imm, fun _ => opI_encodeI⟩
  | lbu rd rs1 imm => exact ⟨_, lbu, TableMatch.lbu rd rs1 imm, fun _ => opI_encodeI⟩
  | lhu rd rs1 imm => exact ⟨_, lhu, TableMatch.lhu rd rs1 imm, fun _ => opI_encodeI⟩
  | lwu rd rs1 imm => exact ⟨_, lwu, TableMatch.lwu rd rs1 imm, fun _ => opI_encodeI⟩
  | sb rs2 rs1 imm => exact ⟨_, sb, TableMatch.sb rs2 rs1 imm, fun _ => opS_encodeS⟩
  | sh rs2 rs1 imm => exact ⟨_, sh, TableMatch.sh rs2 rs1 imm, fun _ => opS_encodeS⟩
  | sw rs2 rs1 imm => exact ⟨_, sw, TableMatch.sw rs2 rs1 imm, fun _ => opS_encodeS⟩
  | sd rs2 rs1 imm => exact ⟨_, sd, TableMatch.sd rs2 rs1 imm, fun _ => opS_encodeS⟩
  | fence fm pred succ rs1 rd => exact ⟨_, fence, TableMatch.fence fm pred succ rs1 rd, fun _ => opFence_encodeI⟩
  | fenceI rd rs1 imm => exact ⟨_, fenceI, TableMatch.fenceI rd rs1 imm, fun _ => opI_encodeI⟩
  | ecall => exact ⟨_, ecall, TableMatch.ecall, fun _ => rfl⟩
  | ebreak => exact ⟨_, ebreak, TableMatch.ebreak, fun _ => rfl⟩
  | csrrw rd rs1 csr => exact ⟨_, csrrw, TableMatch.csrrw rd rs1 csr, fun _ => opI_encodeI⟩
  | csrrs rd rs1 csr => exact ⟨_, csrrs, TableMatch.csrrs rd rs1 csr, fun _ => opI_encodeI⟩
  | csrrc rd rs1 csr => exact ⟨_, csrrc, TableMatch.csrrc rd rs1 csr, fun _ => opI_encodeI⟩
  | csrrwi rd uimm csr => exact ⟨_, csrrwi, TableMatch.csrrwi rd uimm csr, fun _ => opCsrImm_encodeI⟩
  | csrrsi rd uimm csr => exact ⟨_, csrrsi, TableMatch.csrrsi rd uimm csr, fun _ => opCsrImm_encodeI⟩
  | csrrci rd uimm csr => exact ⟨_, csrrci, TableMatch.csrrci rd uimm csr, fun _ => opCsrImm_encodeI⟩
  | miscMemOther w => exact ⟨_, isRow_miscMemOther w⟩
  | systemOther w => exact ⟨_, isRow_systemOther w⟩

theorem fits_encode {i : Instr} (hi : i.wellFormed = true) : i.tableRow.fits (encode i) = true := by
  obtain ⟨op, hop⟩ := exists_isRow i
  exact hop.fits hi

theorem decodeWord_encode {i : Instr} (hi : i.wellFormed = true) : decodeWord (encode i) = .ok i := by
  obtain ⟨op, hop⟩ := exists_isRow i
  rw [hop.decodes _ (beq_iff_eq.1 (hop.fits hi)), hop.operands hi]

theorem decodeWord_of_fits {i : Instr} {w : Word32} (h : i.tableRow.fits w = true) :
    ∃ j, decodeWord w = .ok j := by
  obtain ⟨op, hop⟩ := exists_isRow i
  exact ⟨op w, hop.decodes w (beq_iff_eq.1 h)⟩

theorem fits_of_decodeWord {w : Word32} {i : Instr} (h : decodeWord w = .ok i) : i.tableRow.fits w = true := by
  obtain ⟨hi, rfl⟩ := encodesTo_of_decodeWord h
  exact fits_encode hi

theorem decodeBytes_bytesOfWord {w : Word32} {i : Instr} (h : decodeWord w = .ok i) (rest : List Byte) :
    decodeBytes (bytesOfWord w ++ rest) = .ok (i, rest) := by
  simp only [bytesOfWord, List.cons_append, List.nil_append, decodeBytes, wordOfBytes_bytesOfWord, h]

/-! ## The obligations -/

/-- Settles O30: the encoded word fits the instruction's row, and its 4 bytes make the word again. -/
theorem decodeOfEncodeIsTheInstruction : Obligations.DecodeOfEncodeIsTheInstruction := by
  unfold Obligations.DecodeOfEncodeIsTheInstruction
  intro i hi
  exact ⟨decodeWord_encode hi, decodeBytes_bytesOfWord (decodeWord_encode hi)⟩

/-- Settles O31: a selection answers an instruction that encodes to its record's fields, all of the word. -/
theorem encodeOfDecodeIsTheWord : Obligations.EncodeOfDecodeIsTheWord := by
  unfold Obligations.EncodeOfDecodeIsTheWord
  exact fun _ _ => encodesTo_of_decodeWord

/-- Settles O32: a word that decodes is its instruction's encoding, which fits the row; a word that fits a row
decodes by that row. -/
theorem decodableWordsAreTheTables : Obligations.DecodableWordsAreTheTables := by
  unfold Obligations.DecodableWordsAreTheTables
  exact ⟨fun _ _ => fits_of_decodeWord,
    fun _ => ⟨fun ⟨i, h⟩ => ⟨i, fits_of_decodeWord h⟩, fun ⟨_, h⟩ => decodeWord_of_fits h⟩⟩

/-- Settles O35: the words are closed, so the decoder is run on each. -/
theorem wordsOfTheSpecDecode : Obligations.WordsOfTheSpecDecode := by
  unfold Obligations.WordsOfTheSpecDecode
  decide

end Sys2Proof.Proofs
end
